-- ==== Sys2Proof/Word.lean ====
section
/-! DEFINITION. The width of every register and the two word types of the engine (00_scope.md R5, R9, R11). -/

namespace Sys2Proof

/-- `REGW`, the width of every register, and the only access width of a register operation (00_scope.md R5, 20_memory.md R51). It
stands here and not in Config.lean because Word is defined by it. -/
abbrev Config.registerWidth : Nat := 32

/-- A register value: "All register values are unsigned 32-bit words" (00_scope.md R9). -/
abbrev Word := BitVec Config.registerWidth

/-- One element of a byte string or of the ring (00_scope.md R11, 10_state.md R31). -/
abbrev Byte := BitVec 8

end Sys2Proof
end

