-- ==== Sys2Proof/Config.lean ====
section
/-! DEFINITION. The implementation parameters of 00_scope.md R5, each under the spec's value, and the two
parameters the spec leaves OPEN, which have no body. -/

namespace Sys2Proof.Config

/-- `C`, the ring capacity in bytes (R5: 16384). -/
def ringCapacity : Nat := 16384

/-- `NPRIMARY`, the number of primary registers (R5). -/
def primaryRegisters : Nat := 6

/-- The bytes of one register of the window. -/
def registerBytes : Nat := registerWidth / 8

/-- The length of the register window in bytes (20_memory.md R46: 0x18). -/
def windowBytes : Nat := primaryRegisters * registerBytes

/-- `NCODEC`, the number of codec registers (R5). -/
abbrev codecRegisters : Nat := 8

/-- The width of the codec address, which selects one of the codec registers (10_state.md R27: 3 bits;
notes/assumptions/15.md). -/
abbrev codecAddressWidth : Nat := Nat.log2 codecRegisters

/-- The codec registers that have storage of their own, and the index of the one that has none: the last codec register is the FORMAT
register, the sample rate (10_state.md R29, R30: indices 0 to 6, and 7; notes/assumptions/15.md). -/
abbrev storedCodecRegisters : Nat := codecRegisters - 1

/-- `THRW`, the width of the threshold and occupancy fields (R5). -/
abbrev thresholdWidth : Nat := 15

/-- `FRAME_BYTES`, the bytes of one frame (R5). -/
abbrev frameBytes : Nat := 4

/-- `RATES`, the supported sample rates in frames per second (R5). -/
def rates : List Word := [7350, 8820, 11025, 14700, 17640, 22050, 29400, 44100]

/-- `RATE_RESET` (R5). -/
def rateReset : Word := 44100

/-- What every byte of the ring holds at creation (10_state.md R31, R44), and so what an index the memory does
not list reads as. -/
def ringFill : Byte := 0

/-- The silence and zero-fill byte (43_streaming.md R122, 42_dma_bridge.md R112). -/
def silence : Byte := 0

/-- What the parameters must satisfy "for the rules to be meaningful" (R5), with the two conditions by which the codec address selects
every codec register and no other (10_state.md R27) and the reset rate is supported (R30). -/
abbrev Valid : Prop :=
  1 ≤ frameBytes ∧ frameBytes ≤ ringCapacity ∧ rates ≠ [] ∧ (∀ r ∈ rates, 0 < r) ∧ ringCapacity < 2 ^ thresholdWidth ∧
    2 ^ codecAddressWidth = codecRegisters ∧ rateReset ∈ rates

end Sys2Proof.Config

namespace Sys2Proof

/-- `ChanId`: "any type with equality; the spec uses natural numbers" (00_scope.md R5). -/
abbrev ChanId := Nat

/-- One frame, exactly `FRAME_BYTES` bytes (00_scope.md R16, 43_streaming.md R125, R128). -/
abbrev Frame := Vector Byte Config.frameBytes

/-- `CODEC_OUT`: the codec's transformation of a frame on playback, a function of codec registers 0 to 6 that the
spec leaves OPEN (R5, 92_eei_decisions.md D39). FREE VALUE, notes/assumptions/9.md: it has no body. -/
opaque Config.codecOut : Vector Word Config.storedCodecRegisters → Frame → Frame

/-- `CODEC_IN`: the same on capture (R5, D39). FREE VALUE, notes/assumptions/9.md: it has no body. -/
opaque Config.codecIn : Vector Word Config.storedCodecRegisters → Frame → Frame

end Sys2Proof
end

