-- ==== Sys2Proof/Machine/Transaction.lean ====
section
/-! DEFINITION. What an agent presents to the engine: an 11-bit transaction key and the operands that travel with
it (30_encoding.md R63 to R73), and the reasons for which such a pair names no operation (R71). -/

namespace Sys2Proof

/-- A direction of transfer (30_encoding.md R70): `tx` is playback, `rx` is capture (00_scope.md R16). -/
inductive Dir where
  | tx
  | rx
deriving DecidableEq, Repr

/-- An 11-bit transaction key: class in bits 10:8, selector in bits 7:0 (30_encoding.md R65). -/
abbrev Key := BitVec 11

/-- The operands of each format (30_encoding.md R64, R67 to R73). -/
inductive Operands where
  /-- A register read: the access width in bits (R67). -/
  | read (width : Nat)
  /-- A register write: the access width in bits and the 32-bit data word (R67). -/
  | write (width : Nat) (v : Word)
  /-- DMA.TX and RING.PUSH: a byte string (R68, R73). -/
  | bytes (data : List Byte)
  /-- DMA.RX and RING.POP: a number of bytes (R68, R73). -/
  | count (n : Nat)
  /-- TICK: nothing is presented; the bytes the host audio source supplies if the tick draws a frame, an input of the
  operation (R69, 43_streaming.md R125). -/
  | hostFrame (host : List Byte)
  /-- BIND.DMA: manager, transmit and receive identifiers (R70). -/
  | channels (mgr tx rx : Option ChanId)
  /-- BIND.CH: direction and identifier (R70). -/
  | channel (dir : Dir) (ch : Option ChanId)
  /-- LIFE operations carry nothing (R72). -/
  | nothing
deriving DecidableEq, Repr

/-- One presented operation: "a pair (key, operands)" (30_encoding.md R63). -/
structure Transaction where
  key : Key
  operands : Operands
deriving DecidableEq, Repr

/-- The rows of the operation map (30_encoding.md R66), in its order. -/
inductive Opcode where
  | rdCs0 | rdCs1 | rdCs2 | rdCs3 | rdCaddr | rdCdata
  | wrCs0 | wrCs1 | wrCs2 | wrCs3 | wrCaddr | wrCdata
  | dmaTx | dmaRx | tick | bindDma | bindCh
  | create | reset | teardown | ringPush | ringPop
deriving DecidableEq, Repr

/-- Why a presented pair names no operation. -/
inductive DecodeError where
  /-- The key is reserved: it is in no row of the operation map (30_encoding.md R71). -/
  | reservedKey (key : Key)
  /-- A register operation whose width is not 32 bits (30_encoding.md R71, 20_memory.md R51). -/
  | accessWidth (width : Nat)
  /-- The operands are not those of the key's format (R64): no agent presents such a pair
  (notes/assumptions/7.md). -/
  | operandForm (key : Key)
  /-- The host's frame is not `FRAME_BYTES` bytes: "assumed never" (70_reset_and_hazards.md R186,
  notes/assumptions/8.md). -/
  | frameLength (length : Nat)
deriving DecidableEq, Repr

end Sys2Proof
end

