-- ==== Sys2Proof/Syntax.lean ====
section
/-! DEFINITION. The operations of the engine as an agent presents them, decoded: one constructor per row of
spec/opcode_table.json (30_encoding.md R66). -/

namespace Sys2Proof

/-- An operation of the engine with its operands (30_encoding.md R66 to R73). The access width is not an operand
here: only 32-bit accesses decode (R71). -/
inductive Instr where
  /-- RD.CS0 (R79). -/
  | rdCs0
  /-- RD.CS1 (R80). -/
  | rdCs1
  /-- RD.CS2 (R81). -/
  | rdCs2
  /-- RD.CS3 (R82). -/
  | rdCs3
  /-- RD.CADDR (R83). -/
  | rdCaddr
  /-- RD.CDATA (R84). -/
  | rdCdata
  /-- WR.CS0 (R86). -/
  | wrCs0 (v : Word)
  /-- WR.CS1 (R87). -/
  | wrCs1 (v : Word)
  /-- WR.CS2 (R88). -/
  | wrCs2 (v : Word)
  /-- WR.CS3 (R89). -/
  | wrCs3 (v : Word)
  /-- WR.CADDR (R90). -/
  | wrCaddr (v : Word)
  /-- WR.CDATA (R91). -/
  | wrCdata (v : Word)
  /-- DMA.TX (R109). -/
  | dmaTx (data : List Byte)
  /-- DMA.RX (R112). -/
  | dmaRx (n : Nat)
  /-- TICK (R121), with the bytes the host audio source supplies if the tick draws a frame (R69, R125). -/
  | tick (host : List Byte)
  /-- BIND.DMA (R135). -/
  | bindDma (mgr tx rx : Option ChanId)
  /-- BIND.CH (R137). -/
  | bindCh (dir : Dir) (ch : Option ChanId)
  /-- CREATE (R139). -/
  | create
  /-- RESET (R143). -/
  | reset
  /-- TEARDOWN (R145). -/
  | teardown
  /-- RING.PUSH (R99). -/
  | ringPush (data : List Byte)
  /-- RING.POP (R101). -/
  | ringPop (maxLen : Nat)
deriving DecidableEq, Repr

end Sys2Proof
end

