-- ==== Sys2Proof/WellFormed.lean ====
section
/-! DEFINITION. Which operations an agent can present. Only the host frame of a tick has a bound: every other
operand may take every value of its type (30_encoding.md R67, R68, R70, R73). -/

namespace Sys2Proof

/-- The host supplies "a string of exactly `FRAME_BYTES` bytes" (43_streaming.md R125); nothing else is
constrained. -/
abbrev Instr.WellFormed : Instr → Prop
  | .tick host => host.length = Config.frameBytes
  | .rdCs0 | .rdCs1 | .rdCs2 | .rdCs3 | .rdCaddr | .rdCdata => True
  | .wrCs0 _ | .wrCs1 _ | .wrCs2 _ | .wrCs3 _ | .wrCaddr _ | .wrCdata _ => True
  | .dmaTx _ | .dmaRx _ | .bindDma _ _ _ | .bindCh _ _ => True
  | .create | .reset | .teardown | .ringPush _ | .ringPop _ => True

end Sys2Proof
end

