-- ==== Sys2Proof/Decode.lean ====
section
/-! DEFINITION. The operation map of 30_encoding.md R66 as a decoder, total on every key and operand, which refuses by
name (R71), and the encoder of the same map. -/

namespace Sys2Proof

/-- Key bits 10:8 (30_encoding.md R65). -/
def Key.cls (k : Key) : BitVec 3 := k.extractLsb' 8 3

/-- Key bits 7:0 (R65). -/
def Key.selector (k : Key) : BitVec 8 := k.extractLsb' 0 8

/-- A key from its class and selector (R65). -/
def Key.make (cls : BitVec 3) (selector : BitVec 8) : Key := cls ++ selector

/-- The class of an operation (R64, R66). -/
def Opcode.cls : Opcode → BitVec 3
  | .rdCs0 | .rdCs1 | .rdCs2 | .rdCs3 | .rdCaddr | .rdCdata => 0
  | .wrCs0 | .wrCs1 | .wrCs2 | .wrCs3 | .wrCaddr | .wrCdata => 1
  | .dmaTx | .dmaRx => 2
  | .tick => 3
  | .bindDma | .bindCh => 4
  | .create | .reset | .teardown => 5
  | .ringPush | .ringPop => 6

/-- The byte offset of primary register `n`, in the order of 10_state.md R21 (20_memory.md R46). -/
def registerOffset (n : Nat) : BitVec 8 := BitVec.ofNat 8 (n * Config.registerBytes)

/-- The selector of an operation: for classes 0 and 1 the register's byte offset (10_state.md R21, 20_memory.md R46), for the
others the sub-operation number (R65, R66). -/
def Opcode.selector : Opcode → BitVec 8
  | .rdCs0 | .wrCs0 => registerOffset 0
  | .rdCs1 | .wrCs1 => registerOffset 1
  | .rdCs2 | .wrCs2 => registerOffset 2
  | .rdCs3 | .wrCs3 => registerOffset 3
  | .rdCaddr | .wrCaddr => registerOffset 4
  | .rdCdata | .wrCdata => registerOffset 5
  | .dmaTx | .tick | .bindDma | .create | .ringPush => 0x00
  | .dmaRx | .bindCh | .reset | .ringPop => 0x01
  | .teardown => 0x02

/-- The key of an operation (R66). -/
def Opcode.key (op : Opcode) : Key := Key.make op.cls op.selector

/-- The spec's name of an operation (R66, opcode_table.json). -/
def Opcode.mnemonic : Opcode → String
  | .rdCs0 => "RD.CS0" | .rdCs1 => "RD.CS1" | .rdCs2 => "RD.CS2"
  | .rdCs3 => "RD.CS3" | .rdCaddr => "RD.CADDR" | .rdCdata => "RD.CDATA"
  | .wrCs0 => "WR.CS0" | .wrCs1 => "WR.CS1" | .wrCs2 => "WR.CS2"
  | .wrCs3 => "WR.CS3" | .wrCaddr => "WR.CADDR" | .wrCdata => "WR.CDATA"
  | .dmaTx => "DMA.TX" | .dmaRx => "DMA.RX" | .tick => "TICK"
  | .bindDma => "BIND.DMA" | .bindCh => "BIND.CH"
  | .create => "CREATE" | .reset => "RESET" | .teardown => "TEARDOWN"
  | .ringPush => "RING.PUSH" | .ringPop => "RING.POP"

/-- The rows of the operation map (R66). -/
def Opcode.all : List Opcode :=
  [.rdCs0, .rdCs1, .rdCs2, .rdCs3, .rdCaddr, .rdCdata, .wrCs0, .wrCs1, .wrCs2, .wrCs3, .wrCaddr, .wrCdata] ++
  [.dmaTx, .dmaRx, .tick, .bindDma, .bindCh, .create, .reset, .teardown, .ringPush, .ringPop]

/-- The number of the primary register at a window offset: none where the offset is not a register's or is past the window
(20_memory.md R46, R51). -/
def registerAt (offset : BitVec 8) : Option Nat :=
  if offset.toNat < Config.windowBytes ∧ offset.toNat % Config.registerBytes = 0 then some (offset.toNat / Config.registerBytes)
  else none

/-- The read of primary register `n` (10_state.md R21, R66). -/
def readOfRegister : Nat → Option Opcode
  | 0 => some .rdCs0
  | 1 => some .rdCs1
  | 2 => some .rdCs2
  | 3 => some .rdCs3
  | 4 => some .rdCaddr
  | 5 => some .rdCdata
  | _ => none

/-- The write of primary register `n` (10_state.md R21, R66). -/
def writeOfRegister : Nat → Option Opcode
  | 0 => some .wrCs0
  | 1 => some .wrCs1
  | 2 => some .wrCs2
  | 3 => some .wrCs3
  | 4 => some .wrCaddr
  | 5 => some .wrCdata
  | _ => none

/-- The register read at a window offset (R66). -/
def readAtOffset (offset : BitVec 8) : Option Opcode := (registerAt offset).bind readOfRegister

/-- The register write at a window offset (R66). -/
def writeAtOffset (offset : BitVec 8) : Option Opcode := (registerAt offset).bind writeOfRegister

/-- The operation a key names, none where the key is reserved (30_encoding.md R66, R71). -/
def decodeKey (k : Key) : Option Opcode :=
  match k.cls.toNat, k.selector.toNat with
  | 0, _ => readAtOffset k.selector
  | 1, _ => writeAtOffset k.selector
  | 2, 0 => some .dmaTx
  | 2, 1 => some .dmaRx
  | 3, 0 => some .tick
  | 4, 0 => some .bindDma
  | 4, 1 => some .bindCh
  | 5, 0 => some .create
  | 5, 1 => some .reset
  | 5, 2 => some .teardown
  | 6, 0 => some .ringPush
  | 6, 1 => some .ringPop
  | _, _ => none

/-- A register read must be 32 bits wide (30_encoding.md R67, R71). -/
def decodeRead (i : Instr) (key : Key) : Operands → Except DecodeError Instr
  | .read width => if width = Config.registerWidth then .ok i else .error (.accessWidth width)
  | _ => .error (.operandForm key)

/-- A register write must be 32 bits wide (R67, R71). -/
def decodeWrite (f : Word → Instr) (key : Key) : Operands → Except DecodeError Instr
  | .write width v => if width = Config.registerWidth then .ok (f v) else .error (.accessWidth width)
  | _ => .error (.operandForm key)

/-- DMA.TX and RING.PUSH carry a byte string of any length (R68, R73). -/
def decodeBytes (f : List Byte → Instr) (key : Key) : Operands → Except DecodeError Instr
  | .bytes data => .ok (f data)
  | _ => .error (.operandForm key)

/-- DMA.RX and RING.POP carry a natural number (R68, R73). -/
def decodeCount (f : Nat → Instr) (key : Key) : Operands → Except DecodeError Instr
  | .count n => .ok (f n)
  | _ => .error (.operandForm key)

/-- TICK, with the frame the host would supply (R69, 43_streaming.md R125). -/
def decodeTick (key : Key) : Operands → Except DecodeError Instr
  | .hostFrame host => if host.length = Config.frameBytes then .ok (.tick host) else .error (.frameLength host.length)
  | _ => .error (.operandForm key)

/-- BIND.DMA carries three identifiers (R70). -/
def decodeBindDma (key : Key) : Operands → Except DecodeError Instr
  | .channels mgr tx rx => .ok (.bindDma mgr tx rx)
  | _ => .error (.operandForm key)

/-- BIND.CH carries a direction and an identifier (R70). -/
def decodeBindCh (key : Key) : Operands → Except DecodeError Instr
  | .channel dir ch => .ok (.bindCh dir ch)
  | _ => .error (.operandForm key)

/-- LIFE operations carry nothing (R72). -/
def decodeLife (i : Instr) (key : Key) : Operands → Except DecodeError Instr
  | .nothing => .ok i
  | _ => .error (.operandForm key)

/-- The operation an opcode and its operands name (30_encoding.md R67 to R73). -/
def assemble (op : Opcode) (key : Key) (o : Operands) : Except DecodeError Instr :=
  match op with
  | .rdCs0 => decodeRead .rdCs0 key o
  | .rdCs1 => decodeRead .rdCs1 key o
  | .rdCs2 => decodeRead .rdCs2 key o
  | .rdCs3 => decodeRead .rdCs3 key o
  | .rdCaddr => decodeRead .rdCaddr key o
  | .rdCdata => decodeRead .rdCdata key o
  | .wrCs0 => decodeWrite .wrCs0 key o
  | .wrCs1 => decodeWrite .wrCs1 key o
  | .wrCs2 => decodeWrite .wrCs2 key o
  | .wrCs3 => decodeWrite .wrCs3 key o
  | .wrCaddr => decodeWrite .wrCaddr key o
  | .wrCdata => decodeWrite .wrCdata key o
  | .dmaTx => decodeBytes .dmaTx key o
  | .dmaRx => decodeCount .dmaRx key o
  | .tick => decodeTick key o
  | .bindDma => decodeBindDma key o
  | .bindCh => decodeBindCh key o
  | .create => decodeLife .create key o
  | .reset => decodeLife .reset key o
  | .teardown => decodeLife .teardown key o
  | .ringPush => decodeBytes .ringPush key o
  | .ringPop => decodeCount .ringPop key o

/-- The operation a presented pair names, or why it names none (30_encoding.md R71, R162 (1): key, then width). -/
def decode (t : Transaction) : Except DecodeError Instr :=
  match decodeKey t.key with
  | none => .error (.reservedKey t.key)
  | some op => assemble op t.key t.operands

/-- The row of the operation map an operation stands in (R66). -/
def Instr.opcode : Instr → Opcode
  | .rdCs0 => .rdCs0
  | .rdCs1 => .rdCs1
  | .rdCs2 => .rdCs2
  | .rdCs3 => .rdCs3
  | .rdCaddr => .rdCaddr
  | .rdCdata => .rdCdata
  | .wrCs0 _ => .wrCs0
  | .wrCs1 _ => .wrCs1
  | .wrCs2 _ => .wrCs2
  | .wrCs3 _ => .wrCs3
  | .wrCaddr _ => .wrCaddr
  | .wrCdata _ => .wrCdata
  | .dmaTx _ => .dmaTx
  | .dmaRx _ => .dmaRx
  | .tick _ => .tick
  | .bindDma _ _ _ => .bindDma
  | .bindCh _ _ => .bindCh
  | .create => .create
  | .reset => .reset
  | .teardown => .teardown
  | .ringPush _ => .ringPush
  | .ringPop _ => .ringPop

/-- The operands an operation travels with (R67 to R73). -/
def Instr.operands : Instr → Operands
  | .rdCs0 | .rdCs1 | .rdCs2 | .rdCs3 | .rdCaddr | .rdCdata => .read Config.registerWidth
  | .wrCs0 v | .wrCs1 v | .wrCs2 v | .wrCs3 v | .wrCaddr v | .wrCdata v => .write Config.registerWidth v
  | .dmaTx data | .ringPush data => .bytes data
  | .dmaRx n | .ringPop n => .count n
  | .tick host => .hostFrame host
  | .bindDma mgr tx rx => .channels mgr tx rx
  | .bindCh dir ch => .channel dir ch
  | .create | .reset | .teardown => .nothing

/-- The encoder: the pair an agent presents for an operation (30_encoding.md R63, R66). -/
def encode (i : Instr) : Transaction := { key := i.opcode.key, operands := i.operands }

/-- A bus master's read of a byte offset in the register window (30_encoding.md R65, R67; 20_memory.md R46). -/
def Transaction.busRead (width : Nat) (offset : BitVec 8) : Transaction :=
  { key := Key.make 0 offset, operands := .read width }

/-- A bus master's write (R65, R67). -/
def Transaction.busWrite (width : Nat) (offset : BitVec 8) (v : Word) : Transaction :=
  { key := Key.make 1 offset, operands := .write width v }

/-- The operands of an operation all of whose operand bits are zero; the access width of a register operation is the
bus's own and is 32 (30_encoding.md R67, notes/assumptions/6.md). -/
def Opcode.zeroOperands : Opcode → Operands
  | .rdCs0 | .rdCs1 | .rdCs2 | .rdCs3 | .rdCaddr | .rdCdata => .read Config.registerWidth
  | .wrCs0 | .wrCs1 | .wrCs2 | .wrCs3 | .wrCaddr | .wrCdata => .write Config.registerWidth 0
  | .dmaTx | .ringPush => .bytes []
  | .dmaRx | .ringPop => .count 0
  | .tick => .hostFrame (List.replicate Config.frameBytes 0)
  | .bindDma => .channels (some 0) (some 0) (some 0)
  | .bindCh => .channel .tx (some 0)
  | .create | .reset | .teardown => .nothing

/-- The presented pair whose key is bits 10:0 of `w` (opcode_table.json: every row's mask is 0x7FF), with zero operands
(notes/assumptions/6.md). -/
def Transaction.ofTableWord (nbits w : Nat) : Transaction :=
  let key : Key := BitVec.ofNat 11 (w % 2 ^ nbits)
  { key := key
    operands := match decodeKey key with
      | some op => op.zeroOperands
      | none => .nothing }

/-- The operation the decoder reads from a key word of the opcode table. -/
def decodeTableWord (nbits w : Nat) : Option Instr :=
  match decode (Transaction.ofTableWord nbits w) with
  | .ok i => some i
  | .error _ => none

end Sys2Proof
end

