-- ==== Sys2Proof/Machine/State.lean ====
section
/-! DEFINITION. The state of one engine instance (10_state.md R19 to R42), the outputs of one operation
(00_scope.md R13, 60_exceptions.md R148, R152), the reasons for a fault or a refusal, and the state right after power-on
initialization (10_state.md R44, 70_reset_and_hazards.md R173). -/

namespace Sys2Proof.Machine

/-- The ring's bytes as a canonical list of (index, byte) cells; an index not listed reads `Config.ringFill`. -/
abbrev Memory := List Host.Cell

/-- Where an instance stands in its life cycle (10_state.md R19). -/
inductive Life where
  /-- Not yet created. -/
  | absent
  /-- Created and usable. -/
  | live
  /-- A BindingError has aborted setup (60_exceptions.md R160). -/
  | faulted
  /-- Torn down. -/
  | gone
deriving DecidableEq, Repr

/-- The host audio voice handle (10_state.md R38). -/
inductive Voice where
  | opened
  | closed
deriving DecidableEq, Repr

/-- The state of one instance: exactly the fields of 10_state.md R20. -/
structure Engine where
  /-- Life cycle (R19). -/
  life : Life
  /-- Ring contents (R31). -/
  ring : Memory
  /-- Write cursor, the index the next pushed byte is stored at (R32). -/
  wp : Nat
  /-- Read cursor, the index of the next byte a pop returns (R32). -/
  rp : Nat
  /-- Full flag (R33). -/
  full : Bool
  /-- Transmit enable (R36). -/
  txen : Bool
  /-- Receive enable (R36). -/
  rxen : Bool
  /-- Overrun latch (R35). -/
  ovr : Bool
  /-- Underrun latch (R35). -/
  unr : Bool
  /-- Transmit low-water threshold (R23). -/
  txthr : BitVec Config.thresholdWidth
  /-- Receive high-water threshold (R24). -/
  rxthr : BitVec Config.thresholdWidth
  /-- Codec address (R27). -/
  caddr : BitVec Config.codecAddressWidth
  /-- Codec registers 0 to 6 (R29). -/
  codec : Vector Word Config.storedCodecRegisters
  /-- The sample rate, codec register 7 (R30). -/
  rate : Word
  /-- The DMA channel bound to the transmit direction (R37). -/
  bindTx : Option ChanId
  /-- The DMA channel bound to the receive direction (R37). -/
  bindRx : Option ChanId
  /-- `register_dma` has succeeded (R37). -/
  dmaReg : Bool
  /-- The host audio voice handle (R38). -/
  voice : Voice
deriving DecidableEq, Repr

/-- The cases of BindingError (44_binding_lifecycle.md R134 to R137, 60_exceptions.md R148, R160). The operation
that raises one ends in a NEXT state, with `life` Faulted, and writes the reason into the trace; no step answers
`Host.Outcome.fault` (notes/assumptions/4.md). -/
inductive Fault where
  /-- A channel argument is none: BIND.DMA (R135), BIND.CH (R137). The spec's own fault: safe. -/
  | noChannel
  /-- BIND.DMA after a BIND.DMA that succeeded (R135). The spec's own fault: safe. -/
  | alreadyRegistered
  /-- BIND.DMA or BIND.CH with a direction enabled (R135, R137). The spec's own fault: safe. -/
  | activeEngine
  /-- DMA.TX or DMA.RX on a direction with no channel (R108, R134). The spec's own fault: safe. -/
  | unboundDirection (dir : Dir)
deriving DecidableEq, Repr

/-- Why an operation is refused (30_encoding.md R71, 60_exceptions.md R161). A refused operation ends in a NEXT
state with the refusal mark set, and writes the reason into the trace (notes/assumptions/5.md). -/
inductive Refusal where
  /-- An operation without a meaning in this model: no arm of exec answers so. Safe. -/
  | notModelled (mnemonic : String)
  /-- A presented pair that names no operation: raised by step (R71). The spec's own refusal: safe. -/
  | illegal (why : DecodeError)
  /-- An operation in a life state that does not admit it: raised by every meaning (44_binding_lifecycle.md R133). The
  spec's own refusal: safe. -/
  | notAdmitted (life : Life)
deriving DecidableEq, Repr

/-- The conditions the engine detects (60_exceptions.md R148). -/
inductive Condition where
  | configurationError
  | overrun
  | underrun
  | bindingError
deriving DecidableEq, Repr

/-- The pulse set of one operation, a subset of the three IRQ lines (60_exceptions.md R152). -/
structure Pulses where
  /-- DEV, the device IRQ (R153). -/
  dev : Bool := false
  /-- TXDMA, the transmit-DMA IRQ (R154). -/
  txdma : Bool := false
  /-- RXDMA, the receive-DMA IRQ (R156). -/
  rxdma : Bool := false
deriving DecidableEq, Repr

/-- The value an operation returns to the agent that presented it (00_scope.md R13). -/
inductive Reply where
  /-- The operation returns nothing. -/
  | nothing
  /-- A register read, to the bus master (40_register_access.md R79 to R84). -/
  | word (v : Word)
  /-- The bytes DMA.TX accepted, to the transmit channel (42_dma_bridge.md R109). -/
  | accepted (n : Nat)
  /-- The bytes of DMA.RX, to the receive channel (R112). -/
  | received (data : List Byte)
  /-- The count RING.PUSH returns (41_ring_buffer.md R99). -/
  | pushed (n : Nat)
  /-- The bytes RING.POP returns (R101). -/
  | popped (data : List Byte)
deriving DecidableEq, Repr

/-- The host's sample formats the engine uses: 16-bit signed PCM (44_binding_lifecycle.md R139). -/
inductive SampleFormat where
  | s16
deriving DecidableEq, Repr

/-- A call on the host audio voice (R139, R145). -/
inductive VoiceCall where
  | openVoice (format : SampleFormat) (channels : Nat)
  | closeVoice
deriving DecidableEq, Repr

/-- What one performed operation presents to the outside (00_scope.md R13). -/
structure Effects where
  reply : Reply := .nothing
  pulses : Pulses := {}
  /-- The frame handed to the host audio sink (43_streaming.md R122, R128). -/
  sink : Option Frame := none
  /-- The frame drawn from the host audio source (R124, R125). -/
  drawn : Option Frame := none
  voice : Option VoiceCall := none
  /-- The conditions the operation met and recovered from (60_exceptions.md R148 to R151), seen by no agent
  (notes/assumptions/11.md). -/
  conditions : List Condition := []
deriving DecidableEq, Repr

/-- The observation of one operation (70_reset_and_hazards.md R188). -/
inductive Output where
  /-- The operation was performed. -/
  | done (fx : Effects)
  /-- The operation raised BindingError (60_exceptions.md R160). -/
  | faulted (why : Fault)
  /-- The operation was refused (R161). -/
  | refused (why : Refusal)
deriving DecidableEq, Repr

/-- The machine: one engine instance, its refusal mark, the operations presented to it and the observation of its run. -/
structure State where
  /-- The engine's own state (10_state.md R20). -/
  engine : Engine
  /-- The refusal mark, "kept for the run" (60_exceptions.md R161). -/
  refusalMark : Bool
  /-- The model's own: the operations the agents have presented, oldest first (20_memory.md R52, R58,
  notes/assumptions/2.md). -/
  pending : List Transaction
  /-- The model's own: one output per operation so far, oldest first (70_reset_and_hazards.md R188,
  notes/assumptions/3.md). No operation reads it. -/
  trace : List Output
deriving DecidableEq, Repr

/-- What one step answers. -/
abbrev Result := Host.Outcome State Fault Refusal

/-- The engine after creation: the column "after creation" of 10_state.md R44. -/
def Engine.created : Engine :=
  { life := .live, ring := [], wp := 0, rp := 0, full := false, txen := false, rxen := false, ovr := false, unr := false,
    txthr := 0, rxthr := 0, caddr := 0, codec := Vector.replicate Config.storedCodecRegisters 0, rate := Config.rateReset,
    bindTx := none, bindRx := none, dmaReg := false, voice := .opened }

/-- The machine right after its power-on initialization (70_reset_and_hazards.md R173, notes/assumptions/1.md). -/
def State.reset : State :=
  { engine := Engine.created, refusalMark := false, pending := [], trace := [] }

/-- The machine before creation, where a run of the platform starts (70_reset_and_hazards.md R188): no voice is open (10_state.md
R38); the other fields are the model's choice and CREATE sets them all (notes/assumptions/10.md). -/
def State.absent : State :=
  { State.reset with engine := { Engine.created with life := .absent, voice := .closed } }

end Sys2Proof.Machine
end

