-- ==== Sys2Proof/Machine/Ops.lean ====
section
/-! DEFINITION. The operations every meaning is written over: the ring memory (20_memory.md R48), the three ring
primitives (41_ring_buffer.md), how an operation ends (done, BindingError, refused), the life-cycle guard
(44_binding_lifecycle.md R133), and fetching the next presented operation (20_memory.md R52). -/

namespace Sys2Proof.Machine

/-! ### The ring memory -/

/-- The byte at an index; an index that is not listed reads as at creation (10_state.md R31). -/
def Memory.read : Memory → Nat → Byte
  | [], _ => Config.ringFill
  | (k, b) :: rest, a => if k = a then b else Memory.read rest a

/-- The cells that hold `v` at index `a`: none where `v` is what an unlisted index reads as. -/
def Memory.cell (a : Nat) (v : Byte) : Memory := if v = Config.ringFill then [] else [(a, v)]

/-- `MemWrite(RING + a, 1, v)` (00_scope.md R12), keeping the canonical form. -/
def Memory.write : Memory → Nat → Byte → Memory
  | [], a, v => Memory.cell a v
  | (k, b) :: rest, a, v =>
    if a < k then Memory.cell a v ++ (k, b) :: rest
    else if a = k then Memory.cell a v ++ rest
    else (k, b) :: Memory.write rest a v

/-- The canonical form: indices strictly rising and below `C`, and no cell holds what an unlisted index reads as. -/
abbrev Memory.wf (m : Memory) : Prop :=
  m.Pairwise (fun c d => c.1 < d.1) ∧ ∀ c ∈ m, c.1 < Config.ringCapacity ∧ c.2 ≠ Config.ringFill

/-- Stores the bytes of `data` at ring indices `pos mod C`, `(pos + 1) mod C`, and so on (41_ring_buffer.md R99). -/
def Memory.writeRun (m : Memory) (pos : Nat) : List Byte → Memory
  | [] => m
  | b :: bs => Memory.writeRun (m.write (pos % Config.ringCapacity) b) (pos + 1) bs

/-- The `n` bytes at ring indices `pos mod C`, `(pos + 1) mod C`, and so on (41_ring_buffer.md R101). -/
def Memory.readRun (m : Memory) (pos : Nat) : Nat → List Byte
  | 0 => []
  | n + 1 => m.read (pos % Config.ringCapacity) :: Memory.readRun m (pos + 1) n

/-! ### The ring -/

/-- `occ`, the number of bytes in the ring (10_state.md R26). -/
def Engine.occ (e : Engine) : Nat :=
  if e.full then Config.ringCapacity else (((e.wp : Int) - (e.rp : Int)) % (Config.ringCapacity : Int)).toNat

/-- The free space, `C - occ` (10_state.md R26). -/
def Engine.free (e : Engine) : Nat := Config.ringCapacity - e.occ

/-- `empty`, exactly when `occ = 0` (10_state.md R34). -/
def Engine.empty (e : Engine) : Bool := decide (e.occ = 0)

/-- The bytes in the ring, oldest first: what pops of `occ` bytes would return (41_ring_buffer.md R103). -/
def Engine.contents (e : Engine) : List Byte := e.ring.readRun e.rp e.occ

/-- How many bytes of `data` a push accepts (41_ring_buffer.md R99). -/
def Engine.accepts (e : Engine) (data : List Byte) : Nat := min data.length e.free

/-- Push(data): appends as many bytes of `data` as fit (41_ring_buffer.md R99). The count it returns is
`e.accepts data`. -/
def Engine.push (e : Engine) (data : List Byte) : Engine :=
  let a := e.accepts data
  let wp' := (e.wp + a) % Config.ringCapacity
  { e with
    ring := e.ring.writeRun e.wp (data.take a)
    wp := wp'
    full := if 0 < a ∧ wp' = e.rp then true else e.full }

/-- The bytes Pop(max_len) returns (41_ring_buffer.md R101). -/
def Engine.popBytes (e : Engine) (maxLen : Nat) : List Byte := e.ring.readRun e.rp (min maxLen e.occ)

/-- Pop(max_len): removes up to `maxLen` bytes at the read cursor (41_ring_buffer.md R101). The bytes it returns are
`e.popBytes maxLen`. -/
def Engine.pop (e : Engine) (maxLen : Nat) : Engine :=
  let k := min maxLen e.occ
  { e with
    rp := (e.rp + k) % Config.ringCapacity
    full := if 0 < k then false else e.full }

/-- Flush(): empties the ring; its bytes are not changed (41_ring_buffer.md R104). -/
def Engine.flush (e : Engine) : Engine := { e with wp := 0, rp := 0, full := false }

/-! ### How an operation ends -/

/-- The operation completes: the engine's next state and what it presents (20_memory.md R52, R53). -/
def State.complete (s : State) (e : Engine) (fx : Effects) : Result :=
  .next { s with engine := e, trace := s.trace ++ [.done fx] }

/-- `raise BindingError(info)`, the engine's one exception: the operation has no other effect than
`S.life <- Faulted`, returns nothing and pulses nothing (00_scope.md R14, 60_exceptions.md R160). There is no return from it: nothing clears the
fault (R144, R160). -/
def State.raise (s : State) (why : Fault) : Result :=
  .next { s with engine := { s.engine with life := .faulted }, trace := s.trace ++ [.faulted why] }

/-- `refuse(reason)`: no state changes, nothing is returned or pulsed, and the refusal mark is set and kept (00_scope.md
R14, 30_encoding.md R71, 60_exceptions.md R161). -/
def State.refuse (s : State) (why : Refusal) : Result :=
  .next { s with refusalMark := true, trace := s.trace ++ [.refused why] }

/-- The life-cycle guard of every operation but CREATE (44_binding_lifecycle.md R133). -/
def State.whenLive (s : State) (r : Result) : Result :=
  if s.engine.life = .live then r else s.refuse (.notAdmitted s.engine.life)

/-- The life-cycle guard of CREATE: "created once" (44_binding_lifecycle.md R133). -/
def State.whenAbsent (s : State) (r : Result) : Result :=
  if s.engine.life = .absent then r else s.refuse (.notAdmitted s.engine.life)

/-! ### The operations presented -/

/-- The oldest presented operation and the state without it, none where no agent has presented one (20_memory.md R52,
70_reset_and_hazards.md R188, notes/assumptions/2.md). -/
def State.fetch (s : State) : Option (Transaction × State) :=
  match s.pending with
  | [] => none
  | t :: rest => some (t, { s with pending := rest })

/-- An agent presents an operation after those already presented (20_memory.md R58). -/
def State.present (s : State) (t : Transaction) : State := { s with pending := s.pending ++ [t] }

/-- Puts an operation before every other presented one, so that the next step performs it. -/
def State.presentFirst (s : State) (t : Transaction) : State := { s with pending := t :: s.pending }

/-- One step over a meaning of the decoded operations: no operation, no change (00_scope.md R8); a pair that names no
operation is refused (30_encoding.md R71); the guards of R162 in order, the key and width first. -/
def stepWith (exec : Instr → State → Result) (s : State) : Result :=
  match s.fetch with
  | none => .next s
  | some (t, s') =>
    match decode t with
    | .ok i => exec i s'
    | .error why => s'.refuse (.illegal why)

end Sys2Proof.Machine
end

