-- ==== Sys2Proof/Machine/Operands.lean ====
section
/-! DEFINITION. Operand and result forms: field extraction from write data and assembly of read results (30_encoding.md
R74), byte strings (00_scope.md R11), frames, the codec register window (10_state.md R28), the sample-rate clamp
(43_streaming.md R118). -/

namespace Sys2Proof.Machine

/-- `v[14:0]`, the threshold field of CS1 and CS2 (10_state.md R23, R24). -/
def thresholdField (v : Word) : BitVec Config.thresholdWidth := v.extractLsb' 0 Config.thresholdWidth

/-- `v[2:0]`, the codec address field (10_state.md R27). -/
def codecAddressField (v : Word) : BitVec Config.codecAddressWidth := v.extractLsb' 0 Config.codecAddressWidth

/-- `v[0]`, TXEN in CS0 write data (40_register_access.md R86). -/
def txenField (v : Word) : Bool := v.getLsbD 0

/-- `v[1]`, RXEN in CS0 write data (R86). -/
def rxenField (v : Word) : Bool := v.getLsbD 1

/-- `zext_32(v)` (00_scope.md R9). -/
def zext32 {w : Nat} (v : BitVec w) : Word := v.setWidth Config.registerWidth

/-- `zeros(n)` (00_scope.md R11). -/
def zeros (n : Nat) : List Byte := List.replicate n Config.silence

/-- A byte string filled with zeros up to `n` bytes (42_dma_bridge.md R112, 43_streaming.md R122). -/
def zeroFill (n : Nat) (data : List Byte) : List Byte := data ++ zeros (n - data.length)

/-- The frame whose bytes are the first `FRAME_BYTES` of a byte string. -/
def frameOf (data : List Byte) : Frame := Vector.ofFn fun i => data.getD i.val Config.silence

/-- The bytes of a frame in order. -/
def frameBytes (f : Frame) : List Byte := (List.finRange Config.frameBytes).map fun i => f[i]

/-- `|a - b|` for unsigned words (00_scope.md R9). -/
def rateDistance (a b : Word) : Nat := (a.toNat - b.toNat) + (b.toNat - a.toNat)

/-- The nearer to `v` of two rates, the larger where both are equally near (43_streaming.md R118). -/
def nearerRate (v best r : Word) : Word :=
  if rateDistance v r < rateDistance v best then r
  else if rateDistance v r = rateDistance v best ∧ best < r then r
  else best

/-- Clamp(v), the nearest supported rate (43_streaming.md R118). `RATES` is non-empty (00_scope.md R5). -/
def clampRate (v : Word) : Word := Config.rates.foldl (nearerRate v) (Config.rates.headD Config.rateReset)

/-- The value of codec register `S.caddr`: the rate for the last index, else the stored register (10_state.md R28 to R30,
40_register_access.md R84). -/
def Engine.codecData (e : Engine) : Word :=
  if h : e.caddr.toNat < Config.storedCodecRegisters then e.codec[e.caddr.toNat] else e.rate

/-- A store into codec register `S.caddr` (40_register_access.md R91). -/
def Engine.setCodecData (e : Engine) (v : Word) : Engine :=
  if h : e.caddr.toNat < Config.storedCodecRegisters then { e with codec := e.codec.set e.caddr.toNat v }
  else { e with rate := clampRate v }

/-- The channel bound to a direction (10_state.md R37). -/
def Engine.binding (e : Engine) : Dir → Option ChanId
  | .tx => e.bindTx
  | .rx => e.bindRx

/-- Binds a channel to a direction, replacing a prior one (44_binding_lifecycle.md R138). -/
def Engine.bind (e : Engine) (dir : Dir) (ch : ChanId) : Engine :=
  match dir with
  | .tx => { e with bindTx := some ch }
  | .rx => { e with bindRx := some ch }

end Sys2Proof.Machine
end

