-- ==== Sys2Proof/Machine/Flags.lean ====
section
/-! DEFINITION. The flags of CS0 (10_state.md R22, R40), the two latches (R35) and the pulses (60_exceptions.md R152 to
R156). -/

namespace Sys2Proof.Machine

/-- The word a CS0 read returns: EMPTY, FULL, UNR, OVR, RXEN, TXEN in bits 5 to 0, zeros above (10_state.md R22,
40_register_access.md R79). -/
def Engine.cs0 (e : Engine) : Word :=
  zext32 (BitVec.ofBool e.empty ++ BitVec.ofBool e.full ++ BitVec.ofBool e.unr ++ BitVec.ofBool e.ovr ++
    BitVec.ofBool e.rxen ++ BitVec.ofBool e.txen)

/-- The word a CS3 read returns (10_state.md R25, 40_register_access.md R82). -/
def Engine.cs3 (e : Engine) : Word := zext32 (BitVec.ofNat Config.thresholdWidth e.occ)

/-- Both latches cleared, as a CS0 read does (40_register_access.md R79). -/
def Engine.clearLatches (e : Engine) : Engine := { e with ovr := false, unr := false }

/-- The overrun latch set if `short` (10_state.md R35). -/
def Engine.latchOverrun (e : Engine) (short : Bool) : Engine := { e with ovr := e.ovr || short }

/-- The underrun latch set if `short` (10_state.md R35). -/
def Engine.latchUnderrun (e : Engine) (short : Bool) : Engine := { e with unr := e.unr || short }

/-- A direction is enabled: the "already-active engine" of 44_binding_lifecycle.md R136. -/
def Engine.active (e : Engine) : Bool := e.txen || e.rxen

/-- The transmit low-water event: the ring drained from above the threshold to or below it (60_exceptions.md R155). -/
def Engine.lowWater (e : Engine) (before after : Nat) : Bool :=
  decide (e.txthr.toNat < before) && decide (after ≤ e.txthr.toNat)

/-- The receive high-water event: the ring filled from below the threshold to or above it (60_exceptions.md R156). -/
def Engine.highWater (e : Engine) (before after : Nat) : Bool :=
  decide (before < e.rxthr.toNat) && decide (e.rxthr.toNat ≤ after)

/-- The union of two pulse sets: "Several pulse(L) of the same L in one operation give one edge" (60_exceptions.md R152). -/
def Pulses.union (p q : Pulses) : Pulses :=
  { dev := p.dev || q.dev, txdma := p.txdma || q.txdma, rxdma := p.rxdma || q.rxdma }

/-- The condition met, if any. -/
def conditionIf (met : Bool) (c : Condition) : List Condition := if met then [c] else []

/-- The code of no condition, the first row of the table of 60_exceptions.md R148. -/
def noConditionCode : Nat := 0

/-- The code of a condition (60_exceptions.md R148). -/
def Condition.code : Condition → Nat
  | .configurationError => 1
  | .overrun => 2
  | .underrun => 3
  | .bindingError => 4

/-- What two parts of one operation present together (43_streaming.md R121): each part of a tick presents a sink frame, a draw or
neither, never the same one. -/
def Effects.union (a b : Effects) : Effects :=
  { reply := b.reply
    pulses := a.pulses.union b.pulses
    sink := a.sink.or b.sink
    drawn := a.drawn.or b.drawn
    voice := a.voice.or b.voice
    conditions := a.conditions ++ b.conditions }

/-- The pulse set of an operation; a refused or faulting operation has none (60_exceptions.md R152). -/
def Output.pulses : Output → Pulses
  | .done fx => fx.pulses
  | .faulted _ => {}
  | .refused _ => {}

/-- The value an operation returned; a refused or faulting operation returns nothing (60_exceptions.md R160, R161). -/
def Output.reply : Output → Reply
  | .done fx => fx.reply
  | .faulted _ => .nothing
  | .refused _ => .nothing

/-- The frame an operation emitted to the host sink (43_streaming.md R128). -/
def Output.sink : Output → Option Frame
  | .done fx => fx.sink
  | .faulted _ => none
  | .refused _ => none

/-- The conditions an operation met (60_exceptions.md R148). -/
def Output.conditions : Output → List Condition
  | .done fx => fx.conditions
  | .faulted _ => [.bindingError]
  | .refused _ => []

/-- The codes of the conditions met, and the code of none where none is met (60_exceptions.md R148). -/
def conditionCodes : List Condition → List Nat
  | [] => [noConditionCode]
  | c :: cs => (c :: cs).map Condition.code

/-- The codes an operation is recorded under (60_exceptions.md R148): code 0 for one that met no condition, a refused one among them. -/
def Output.codes (o : Output) : List Nat := conditionCodes o.conditions

end Sys2Proof.Machine
end

