-- ==== Sys2Proof/Machine/Binding.lean ====
section
/-! DEFINITION. DMA channel registration (44_binding_lifecycle.md R135 to R138). The checks are made in the order the rules list
them, and the first that applies decides (60_exceptions.md R162). -/

namespace Sys2Proof.Machine

/-- The engine after a registration of both directions (44_binding_lifecycle.md R135). -/
def Engine.register (e : Engine) (tx rx : ChanId) : Engine :=
  { e with bindTx := some tx, bindRx := some rx, dmaReg := true }

/-- BIND.DMA, `register_dma` (R135, R136): the manager must be present and is not kept. -/
def execBindDma (mgr tx rx : Option ChanId) (s : State) : Result :=
  s.whenLive <|
    match mgr, tx, rx with
    | some _, some tx, some rx =>
      if s.engine.dmaReg then s.raise .alreadyRegistered
      else if s.engine.active then s.raise .activeEngine
      else s.complete (s.engine.register tx rx) {}
    | _, _, _ => s.raise .noChannel

/-- BIND.CH, `register_channel` (R137): replaces a prior binding of the direction (R138). -/
def execBindCh (dir : Dir) (ch : Option ChanId) (s : State) : Result :=
  s.whenLive <|
    match ch with
    | none => s.raise .noChannel
    | some ch =>
      if s.engine.active then s.raise .activeEngine
      else s.complete (s.engine.bind dir ch) {}

end Sys2Proof.Machine
end

