-- ==== Sys2Proof/Machine/DmaBridge.lean ====
section
/-! DEFINITION. The DMA bridge's transfers (42_dma_bridge.md). Each is one atomic operation whatever its length, never waits and
reports what it moved (R115, R116). -/

namespace Sys2Proof.Machine

/-- The binding guard of a transfer (42_dma_bridge.md R108 (3), 44_binding_lifecycle.md R134). -/
def State.whenBound (s : State) (dir : Dir) (r : Result) : Result :=
  match s.engine.binding dir with
  | none => s.raise (.unboundDirection dir)
  | some _ => r

/-- A transmit transfer with the direction enabled: a push, and an overrun if not every byte fits (R109). -/
def State.transmit (s : State) (data : List Byte) : Result :=
  let a := s.engine.accepts data
  let short := decide (a < data.length)
  let fires := short && !s.engine.ovr
  s.complete ((s.engine.push data).latchOverrun short)
    { reply := .accepted a
      pulses := { dev := fires, txdma := fires }
      conditions := conditionIf short .overrun }

/-- DMA.TX (R108 to R111). -/
def execDmaTx (data : List Byte) (s : State) : Result :=
  s.whenLive <| s.whenBound .tx <|
    if s.engine.txen then s.transmit data else s.complete s.engine { reply := .accepted 0 }

/-- A receive transfer with the direction enabled: a pop, zero-filled to `n` bytes, and an underrun if it is short (R112). -/
def State.receive (s : State) (n : Nat) : Result :=
  let out := s.engine.popBytes n
  let short := decide (out.length < n)
  s.complete ((s.engine.pop n).latchUnderrun short)
    { reply := .received (zeroFill n out)
      pulses := { dev := short && !s.engine.unr }
      conditions := conditionIf short .underrun }

/-- DMA.RX (R108, R112 to R114). -/
def execDmaRx (n : Nat) (s : State) : Result :=
  s.whenLive <| s.whenBound .rx <|
    if s.engine.rxen then s.receive n else s.complete s.engine { reply := .received (zeros n) }

end Sys2Proof.Machine
end

