-- ==== Sys2Proof/Machine/Lifecycle.lean ====
section
/-! DEFINITION. Device creation, reset and teardown (44_binding_lifecycle.md R139 to R146). None of them pulses a line
(60_exceptions.md R158). -/

namespace Sys2Proof.Machine

/-- The channels of the voice the engine opens (44_binding_lifecycle.md R139). -/
def voiceChannels : Nat := 2

/-- CREATE: every field at its value after creation, and the voice opened (44_binding_lifecycle.md R139, 10_state.md R44). -/
def execCreate (s : State) : Result :=
  s.whenAbsent (s.complete Engine.created { voice := some (.openVoice .s16 voiceChannels) })

/-- The engine after a reset: the column "after reset" of 10_state.md R44 (44_binding_lifecycle.md R143). Life, ring bytes,
bindings, `dma_reg` and the voice are kept. -/
def Engine.afterReset (e : Engine) : Engine :=
  { e.flush with
    txen := false
    rxen := false
    ovr := false
    unr := false
    txthr := 0
    rxthr := 0
    caddr := 0
    codec := Vector.replicate Config.storedCodecRegisters 0
    rate := Config.rateReset }

/-- RESET (44_binding_lifecycle.md R143, R144). -/
def execReset (s : State) : Result :=
  s.whenLive (s.complete s.engine.afterReset {})

/-- The engine after teardown: the voice closed, the borrowed channels released (44_binding_lifecycle.md R145). -/
def Engine.tornDown (e : Engine) : Engine :=
  { e with voice := .closed, bindTx := none, bindRx := none, life := .gone }

/-- TEARDOWN (44_binding_lifecycle.md R145, R146). -/
def execTeardown (s : State) : Result :=
  s.whenLive (s.complete s.engine.tornDown { voice := some .closeVoice })

end Sys2Proof.Machine
end

