-- ==== Sys2Proof/Machine/RegisterAccess.lean ====
section
/-! DEFINITION. The register access operations (40_register_access.md): six reads and six writes. Each has the guard of
R78 (2); its guard (1), the width and the offset, is the decoder's. No register operation faults or pulses a line
(R78, 60_exceptions.md R158). -/

namespace Sys2Proof.Machine

/-- RD.CS0: returns the flags and clears both latches (40_register_access.md R79). -/
def execRdCs0 (s : State) : Result :=
  s.whenLive (s.complete s.engine.clearLatches { reply := .word s.engine.cs0 })

/-- RD.CS1: the transmit threshold (R80). -/
def execRdCs1 (s : State) : Result :=
  s.whenLive (s.complete s.engine { reply := .word (zext32 s.engine.txthr) })

/-- RD.CS2: the receive threshold (R81). -/
def execRdCs2 (s : State) : Result :=
  s.whenLive (s.complete s.engine { reply := .word (zext32 s.engine.rxthr) })

/-- RD.CS3: the live occupancy (R82). -/
def execRdCs3 (s : State) : Result :=
  s.whenLive (s.complete s.engine { reply := .word s.engine.cs3 })

/-- RD.CADDR: the codec address (R83). -/
def execRdCaddr (s : State) : Result :=
  s.whenLive (s.complete s.engine { reply := .word (zext32 s.engine.caddr) })

/-- RD.CDATA: the selected codec register (R84). -/
def execRdCdata (s : State) : Result :=
  s.whenLive (s.complete s.engine { reply := .word s.engine.codecData })

/-- The engine after a CS0 write: the enables, and a flush if either changes from 0 to 1 (R86). -/
def Engine.writeCs0 (e : Engine) (v : Word) : Engine :=
  let txOn := !e.txen && txenField v
  let rxOn := !e.rxen && rxenField v
  let e' := { e with txen := txenField v, rxen := rxenField v }
  if txOn || rxOn then e'.flush else e'

/-- WR.CS0: the enables (R86). -/
def execWrCs0 (v : Word) (s : State) : Result :=
  s.whenLive (s.complete (s.engine.writeCs0 v) {})

/-- WR.CS1: the transmit threshold (R87). -/
def execWrCs1 (v : Word) (s : State) : Result :=
  s.whenLive (s.complete { s.engine with txthr := thresholdField v } {})

/-- WR.CS2: the receive threshold (R88). -/
def execWrCs2 (v : Word) (s : State) : Result :=
  s.whenLive (s.complete { s.engine with rxthr := thresholdField v } {})

/-- WR.CS3: no effect, CS3 is read-only and has no storage (R89). -/
def execWrCs3 (_v : Word) (s : State) : Result :=
  s.whenLive (s.complete s.engine {})

/-- WR.CADDR: selects a codec register (R90). -/
def execWrCaddr (v : Word) (s : State) : Result :=
  s.whenLive (s.complete { s.engine with caddr := codecAddressField v } {})

/-- A write of a value that is no supported rate to codec register 7: ConfigurationError, recovered by clamping
(60_exceptions.md R148, R149). -/
def Engine.badRate (e : Engine) (v : Word) : Bool :=
  decide (¬ e.caddr.toNat < Config.storedCodecRegisters) && !Config.rates.contains v

/-- WR.CDATA: stores into the selected codec register (R91). -/
def execWrCdata (v : Word) (s : State) : Result :=
  s.whenLive (s.complete (s.engine.setCodecData v) { conditions := conditionIf (s.engine.badRate v) .configurationError })

end Sys2Proof.Machine
end

