-- ==== Sys2Proof/Machine/RingBuffer.lean ====
section
/-! DEFINITION. The ring primitives as operations (41_ring_buffer.md R99, R101; 30_encoding.md R73): no agent presents them, no
latch changes and no line is pulsed. -/

namespace Sys2Proof.Machine

/-- RING.PUSH (41_ring_buffer.md R99). -/
def execRingPush (data : List Byte) (s : State) : Result :=
  s.whenLive (s.complete (s.engine.push data) { reply := .pushed (s.engine.accepts data) })

/-- RING.POP (41_ring_buffer.md R101). -/
def execRingPop (maxLen : Nat) (s : State) : Result :=
  s.whenLive (s.complete (s.engine.pop maxLen) { reply := .popped (s.engine.popBytes maxLen) })

end Sys2Proof.Machine
end

