-- ==== Sys2Proof/Machine/Streaming.lean ====
section
/-! DEFINITION. The streaming tick (43_streaming.md R121 to R131): the playback half, then the capture half. -/

namespace Sys2Proof.Machine

/-- The engine after PlaybackHalf() (43_streaming.md R122): a frame's worth of bytes popped, UNR set if they are short. -/
def Engine.playback (e : Engine) : Engine :=
  (e.pop Config.frameBytes).latchUnderrun (decide ((e.popBytes Config.frameBytes).length < Config.frameBytes))

/-- What PlaybackHalf() presents (R122, R123, 60_exceptions.md R155): the frame, zero-filled, through `CODEC_OUT`. -/
def Engine.playbackEffects (e : Engine) : Effects :=
  let out := e.popBytes Config.frameBytes
  let short := decide (out.length < Config.frameBytes)
  { pulses := { dev := short && !e.unr, txdma := e.lowWater e.occ e.playback.occ }
    sink := some (Config.codecOut e.codec (frameOf (zeroFill Config.frameBytes out)))
    conditions := conditionIf short .underrun }

/-- The bytes CaptureHalf() pushes: the host frame through `CODEC_IN` (43_streaming.md R124). -/
def Engine.captureBytes (e : Engine) (host : List Byte) : List Byte :=
  frameBytes (Config.codecIn e.codec (frameOf host))

/-- The engine after CaptureHalf() (R124): the frame pushed, OVR set if it does not fit. -/
def Engine.capture (e : Engine) (host : List Byte) : Engine :=
  (e.push (e.captureBytes host)).latchOverrun (decide (e.accepts (e.captureBytes host) < Config.frameBytes))

/-- What CaptureHalf() presents (R124, R125, 60_exceptions.md R156). A capture overrun does not pulse TXDMA. -/
def Engine.captureEffects (e : Engine) (host : List Byte) : Effects :=
  let short := decide (e.accepts (e.captureBytes host) < Config.frameBytes)
  { pulses := { dev := short && !e.ovr, rxdma := e.highWater e.occ (e.capture host).occ }
    drawn := some (frameOf host)
    conditions := conditionIf short .overrun }

/-- The playback half if transmit is enabled (R121). -/
def Engine.playbackPart (e : Engine) : Engine × Effects :=
  if e.txen then (e.playback, e.playbackEffects) else (e, {})

/-- The capture half if receive is enabled (R121). -/
def Engine.capturePart (e : Engine) (host : List Byte) : Engine × Effects :=
  if e.rxen then (e.capture host, e.captureEffects host) else (e, {})

/-- TICK (R121): the playback half runs before the capture half; with neither direction enabled nothing changes (R126). -/
def execTick (host : List Byte) (s : State) : Result :=
  s.whenLive <|
    let p := s.engine.playbackPart
    let c := p.1.capturePart host
    s.complete c.1 (p.2.union c.2)

/-- The nominal number of ticks in a second, informational only: no operation reads it (43_streaming.md R120, R130). -/
def Engine.nominalTicksPerSecond (e : Engine) : Nat := e.rate.toNat

end Sys2Proof.Machine
end

