-- ==== Sys2Proof/Machine/Dispatch.lean ====
section
/-! DEFINITION. One arm per operation of the operation map (30_encoding.md R66), each one call of its meaning. -/

namespace Sys2Proof.Machine

/-- What an operation does in a state. -/
def exec (i : Instr) (s : State) : Host.Outcome State Fault Refusal :=
  match i with
  | .rdCs0 => Sys2Proof.Machine.execRdCs0 s
  | .rdCs1 => Sys2Proof.Machine.execRdCs1 s
  | .rdCs2 => Sys2Proof.Machine.execRdCs2 s
  | .rdCs3 => Sys2Proof.Machine.execRdCs3 s
  | .rdCaddr => Sys2Proof.Machine.execRdCaddr s
  | .rdCdata => Sys2Proof.Machine.execRdCdata s
  | .wrCs0 v => Sys2Proof.Machine.execWrCs0 v s
  | .wrCs1 v => Sys2Proof.Machine.execWrCs1 v s
  | .wrCs2 v => Sys2Proof.Machine.execWrCs2 v s
  | .wrCs3 v => Sys2Proof.Machine.execWrCs3 v s
  | .wrCaddr v => Sys2Proof.Machine.execWrCaddr v s
  | .wrCdata v => Sys2Proof.Machine.execWrCdata v s
  | .dmaTx data => Sys2Proof.Machine.execDmaTx data s
  | .dmaRx n => Sys2Proof.Machine.execDmaRx n s
  | .tick host => Sys2Proof.Machine.execTick host s
  | .bindDma mgr tx rx => Sys2Proof.Machine.execBindDma mgr tx rx s
  | .bindCh dir ch => Sys2Proof.Machine.execBindCh dir ch s
  | .create => Sys2Proof.Machine.execCreate s
  | .reset => Sys2Proof.Machine.execReset s
  | .teardown => Sys2Proof.Machine.execTeardown s
  | .ringPush data => Sys2Proof.Machine.execRingPush data s
  | .ringPop maxLen => Sys2Proof.Machine.execRingPop maxLen s

end Sys2Proof.Machine
end

