-- ==== Sys2Proof/Machine/Step.lean ====
section
/-! DEFINITION. One step: the oldest presented operation, decoded and performed (20_memory.md R52), and the host's way to
present a word of the opcode table first. -/

namespace Sys2Proof.Machine

/-- One step (20_memory.md R52, 00_scope.md R8). -/
def step (s : State) : Host.Outcome State Fault Refusal := stepWith exec s

/-- The state in which the operation of a key word, with zero operands, is presented before every other
(notes/assumptions/6.md). -/
def State.withFetchWord (s : State) (nbits w : Nat) : State := s.presentFirst (Transaction.ofTableWord nbits w)

end Sys2Proof.Machine
end

