-- ==== Sys2Proof/Machine/Instances.lean ====
section
/-! DEFINITION. Several instances side by side (60_exceptions.md R171, 44_binding_lifecycle.md R142): each has a state of its own and an
operation is presented to one of them. -/

namespace Sys2Proof.Machine

/-- The instances of a platform, by number. -/
abbrev Instances := List State

/-- A device attached: a new instance, not yet created (44_binding_lifecycle.md R142, R146). -/
def Instances.attach (m : Instances) : Instances := m ++ [State.absent]

/-- An operation presented to instance `k`; where there is no such instance nobody receives it (60_exceptions.md R171,
notes/assumptions/12.md). -/
def Instances.execAt (m : Instances) (k : Nat) (i : Instr) : Host.Outcome Instances Fault Refusal :=
  match m[k]? with
  | none => .next m
  | some s =>
    match exec i s with
    | .next t => .next (m.set k t)
    | .fault r => .fault r
    | .refused r => .refused r

end Sys2Proof.Machine
end

