-- ==== Sys2Proof/Machine/Pseudo.lean ====
section
/-! DEFINITION. The pseudo-operations of 30_encoding.md R77 as their expansions. None is atomic: another agent's
operation may come between two operations of an expansion. -/

namespace Sys2Proof

/-- `codec.wr i, v` (R77). -/
def pseudoCodecWr (i v : Word) : List Instr := [.wrCaddr i, .wrCdata v]

/-- `codec.rd i` (R77). -/
def pseudoCodecRd (i : Word) : List Instr := [.wrCaddr i, .rdCdata]

/-- The address of the FORMAT register, codec register 7 (10_state.md R30). -/
def formatAddress : Word := BitVec.ofNat Config.registerWidth Config.storedCodecRegisters

/-- `setrate r` (R77). -/
def pseudoSetRate (r : Word) : List Instr := pseudoCodecWr formatAddress r

/-- `getrate` (R77). -/
def pseudoGetRate : List Instr := pseudoCodecRd formatAddress

/-- `ack`, the acknowledgment of DEV (R77, 60_exceptions.md R164). -/
def pseudoAck : List Instr := [.rdCs0]

/-- `start.tx` (R77). -/
def pseudoStartTx : List Instr := [.wrCs0 0x1]

/-- `start.rx` (R77). -/
def pseudoStartRx : List Instr := [.wrCs0 0x2]

/-- `stop` (R77). -/
def pseudoStop : List Instr := [.wrCs0 0x0]

end Sys2Proof
end

