-- ==== Sys2Proof/Safety.lean ====
section
/-! DEFINITION. The terms claims are stated in: the invariants of 10_state.md R41, who presents which operation
(00_scope.md R7, 30_encoding.md R64, R73), what a good run is and what is observed of it (70_reset_and_hazards.md R188). -/

namespace Sys2Proof.Machine

/-! ### Invariants -/

/-- The ring's invariants: both cursors inside the ring, a full ring has equal cursors, the memory is canonical
(10_state.md R41 (1), (2)). -/
abbrev Engine.RingInv (e : Engine) : Prop :=
  e.wp < Config.ringCapacity ∧ e.rp < Config.ringCapacity ∧ (e.full = true → e.wp = e.rp) ∧ e.ring.wf

/-- The voice is open from creation until teardown (10_state.md R38). -/
abbrev Engine.VoiceInv (e : Engine) : Prop :=
  e.voice = .opened ↔ (e.life = .live ∨ e.life = .faulted)

/-- A registered engine has both directions bound until teardown (10_state.md R37, 44_binding_lifecycle.md R135, R145). -/
abbrev Engine.BindingInv (e : Engine) : Prop :=
  e.dmaReg = true → e.life ≠ .gone → e.bindTx.isSome = true ∧ e.bindRx.isSome = true

/-- What holds of an engine in every state the rules reach, "in every life state" (10_state.md R41). -/
abbrev Engine.Inv (e : Engine) : Prop :=
  e.RingInv ∧ e.rate ∈ Config.rates ∧ e.VoiceInv ∧ e.BindingInv

/-! ### Agents and life cycle -/

/-- The agents that present operations (00_scope.md R7). -/
inductive Agent where
  | busMaster
  | dmaManager
  | hostAudioClock
  | platform
deriving DecidableEq, Repr

/-- Who presents an operation; RING operations are internal and nobody presents them (30_encoding.md R64, R73). -/
def Opcode.agent : Opcode → Option Agent
  | .rdCs0 | .rdCs1 | .rdCs2 | .rdCs3 | .rdCaddr | .rdCdata => some .busMaster
  | .wrCs0 | .wrCs1 | .wrCs2 | .wrCs3 | .wrCaddr | .wrCdata => some .busMaster
  | .dmaTx | .dmaRx | .bindDma | .bindCh => some .dmaManager
  | .tick => some .hostAudioClock
  | .create | .reset | .teardown => some .platform
  | .ringPush | .ringPop => none

/-- An operation that some agent may present to the device (30_encoding.md R73). -/
abbrev Presentable (i : Instr) : Prop := (Opcode.agent i.opcode).isSome = true

/-- Which operations each life state admits (44_binding_lifecycle.md R133). -/
def admits : Life → Opcode → Bool
  | .absent, op => decide (op = .create)
  | .live, op => decide (op ≠ .create)
  | .faulted, _ => false
  | .gone, _ => false

/-! ### How an operation ends -/

/-- The operation is performed: it leaves the engine as `e`, presents `fx`, and changes nothing else (20_memory.md R52). -/
def Performs (i : Instr) (s : State) (e : Engine) (fx : Effects) : Prop :=
  exec i s = .next { s with engine := e, trace := s.trace ++ [.done fx] }

/-- The operation raises BindingError: only the life state changes, nothing is returned or pulsed (60_exceptions.md R160). -/
def RaisesBindingError (i : Instr) (s : State) (why : Fault) : Prop :=
  exec i s = .next { s with engine := { s.engine with life := .faulted }, trace := s.trace ++ [.faulted why] }

/-- The operation is refused: the engine is unchanged, nothing is returned or pulsed, and the refusal mark is set (60_exceptions.md
R161). -/
def IsRefused (i : Instr) (s : State) : Prop :=
  exec i s = .next { s with refusalMark := true, trace := s.trace ++ [.refused (.notAdmitted s.engine.life)] }

/-- The bytes a push or transfer stores and the bytes it leaves alone: `data[i]` at ring index `(wp + i) mod C` for each of the
first `a` bytes, every other index as before (41_ring_buffer.md R99). -/
def StoresAt (before after : Memory) (wp : Nat) (data : List Byte) (a : Nat) : Prop :=
  (∀ i < a, ∀ b, data[i]? = some b → after.read ((wp + i) % Config.ringCapacity) = b) ∧
    ∀ x, (∀ i < a, x ≠ (wp + i) % Config.ringCapacity) → after.read x = before.read x

/-! ### The tick's halves as the spec writes them -/

/-- PlaybackHalf() from engine `e` to engine `m` (43_streaming.md R122), or nothing where transmit is disabled (R121). -/
def PlaybackRule (e m : Engine) (fx : Effects) : Prop :=
  if e.txen then
    let k := min Config.frameBytes e.occ
    let short := decide (k < Config.frameBytes)
    m = { e with
          rp := (e.rp + k) % Config.ringCapacity
          full := if 0 < k then false else e.full
          unr := e.unr || short } ∧
    ∃ f : Frame,
      (∀ (j : Nat) (h : j < Config.frameBytes),
        f[j] = if j < e.occ then e.ring.read ((e.rp + j) % Config.ringCapacity) else Config.silence) ∧
      fx.sink = some (Config.codecOut e.codec f) ∧
      fx.pulses = { dev := short && !e.unr
                    txdma := decide (e.txthr.toNat < e.occ) && decide (m.occ ≤ e.txthr.toNat) }
  else m = e ∧ fx = {}

/-- CaptureHalf() from engine `m` to engine `e` with host frame `g` (43_streaming.md R124), or nothing where receive is disabled
(R121). -/
def CaptureRule (m e : Engine) (g : Frame) (fx : Effects) : Prop :=
  if m.rxen then
    let h := (Config.codecIn m.codec g).toList
    let a := min Config.frameBytes (Config.ringCapacity - m.occ)
    let short := decide (a < Config.frameBytes)
    e = { m with
          ring := e.ring
          wp := (m.wp + a) % Config.ringCapacity
          full := if 0 < a ∧ (m.wp + a) % Config.ringCapacity = m.rp then true else m.full
          ovr := m.ovr || short } ∧
    StoresAt m.ring e.ring m.wp h a ∧
    fx.drawn = some g ∧
    fx.pulses = { dev := short && !m.ovr
                  rxdma := decide (m.occ < m.rxthr.toNat) && decide (m.rxthr.toNat ≤ e.occ) }
  else e = m ∧ fx = {}

/-! ### Runs -/

/-- A finite sequence of operations, one after the other (70_reset_and_hazards.md R188). -/
def runOps : List Instr → State → Result
  | [], s => .next s
  | i :: is, s =>
    match exec i s with
    | .next t => runOps is t
    | .fault r => .fault r
    | .refused r => .refused r

/-- Not a good run: "`S.life = Faulted` or with the refusal mark set" (70_reset_and_hazards.md R188). -/
abbrev State.Good (s : State) : Prop := s.engine.life ≠ .faulted ∧ s.refusalMark = false

/-- "the sequence of values returned to each agent" (R188). -/
def State.returned (s : State) : List Reply := s.trace.map Output.reply

/-- "the sequence of pulse sets, one per operation" (R188). -/
def State.pulseSets (s : State) : List Pulses := s.trace.map Output.pulses

/-- "the sequence of frames emitted to the sink" (R188). -/
def State.sinkFrames (s : State) : List Frame := s.trace.filterMap Output.sink

/-- The state before operation `n` of an endless sequence of operations that starts at `s`. Every operation answers a next state
(20_memory.md R53). -/
def stateAt (ops : Nat → Instr) (s : State) : Nat → State
  | 0 => s
  | n + 1 =>
    match exec (ops n) (stateAt ops s n) with
    | .next t => t
    | .fault _ => stateAt ops s n
    | .refused _ => stateAt ops s n

/-- The host audio clock's duty, as far as it can be said without time: "some tick always eventually comes while the device is Live"
(43_streaming.md R120, 70_reset_and_hazards.md R186). From every point of the sequence on, a tick comes or the device is at some time
not Live; a clock that stops after TEARDOWN or a fault is fair. -/
def TickFair (ops : Nat → Instr) (s : State) : Prop :=
  ∀ n, ∃ m, n ≤ m ∧ ((stateAt ops s m).engine.life ≠ .live ∨ (ops m).opcode = .tick)

/-! ### Sequences of pushes and pops -/

/-- A push of some bytes or a pop of up to some number of bytes (41_ring_buffer.md R105). -/
inductive RingOp where
  | push (data : List Byte)
  | pop (maxLen : Nat)
deriving DecidableEq, Repr

/-- The operation a push or pop is (30_encoding.md R73). -/
def RingOp.instr : RingOp → Instr
  | .push data => .ringPush data
  | .pop maxLen => .ringPop maxLen

/-- The bytes the pushes of a sequence accept, in order (41_ring_buffer.md R105, R106). -/
def acceptedBytes : List RingOp → Engine → List Byte
  | [], _ => []
  | .push data :: ops, e => data.take (e.accepts data) ++ acceptedBytes ops (e.push data)
  | .pop maxLen :: ops, e => acceptedBytes ops (e.pop maxLen)

/-- The bytes the pops of a sequence return, in order (41_ring_buffer.md R105, R106). -/
def poppedBytes : List RingOp → Engine → List Byte
  | [], _ => []
  | .push data :: ops, e => poppedBytes ops (e.push data)
  | .pop maxLen :: ops, e => e.popBytes maxLen ++ poppedBytes ops (e.pop maxLen)

/-! ### Pulses of a run -/

/-- How many of some operations pulsed DEV (60_exceptions.md R159). -/
def devPulses (outs : List Output) : Nat := (outs.filter fun o => o.pulses.dev).length

/-- The output of a DMA.TX that pulsed TXDMA (60_exceptions.md R154 (a), R159). -/
def Output.transmitOverrunPulse (o : Output) : Bool :=
  match o.reply with
  | .accepted _ => o.pulses.txdma
  | _ => false

/-- How many DMA.TX operations pulsed TXDMA (60_exceptions.md R159). -/
def transmitOverrunPulses (outs : List Output) : Nat := (outs.filter Output.transmitOverrunPulse).length

/-- The operations that clear a latch: the CS0 read and RESET (10_state.md R35, 92_eei_decisions.md D15), and CREATE, which sets every field. -/
def clearsLatches : Instr → Bool
  | .rdCs0 | .reset | .create => true
  | .rdCs1 | .rdCs2 | .rdCs3 | .rdCaddr | .rdCdata => false
  | .wrCs0 _ | .wrCs1 _ | .wrCs2 _ | .wrCs3 _ | .wrCaddr _ | .wrCdata _ => false
  | .dmaTx _ | .dmaRx _ | .tick _ | .bindDma _ _ _ | .bindCh _ _ => false
  | .teardown | .ringPush _ | .ringPop _ => false

end Sys2Proof.Machine
end

