-- ==== Sys2Proof/Certificates/Slice0/Obligations.lean ====
section
/-! DEFINITION. The statements for the provers. Each docstring names the rule of spec/ it comes from. -/

open Sys2Proof Sys2Proof.Machine

/-! ### Decoding and encoding -/

/-- R66: words of the operation map, written out as class and selector bits (R65), decode to their operations. -/
def Obligations.SpecWordsDecode : Prop :=
  decode { key := 0b00000000000#11, operands := .read 32 } = .ok .rdCs0 ∧
  decode { key := 0b00100000100#11, operands := .write 32 4 } = .ok (.wrCs1 4) ∧
  decode { key := 0b01000000001#11, operands := .count 6 } = .ok (.dmaRx 6) ∧
  decode { key := 0b10000000000#11, operands := .channels (some 9) (some 1) (some 2) } = .ok (.bindDma (some 9) (some 1) (some 2)) ∧
  decode { key := 0b10100000010#11, operands := .nothing } = .ok .teardown ∧
  decode { key := 0b11000000001#11, operands := .count 3 } = .ok (.ringPop 3)

/-- R71: exactly the keys outside the operation map are reserved, whatever the operands. -/
def Obligations.ReservedKeysExactly : Prop :=
  ∀ (cls : BitVec 3) (sel : BitVec 8) (o : Operands),
    decode { key := cls ++ sel, operands := o } = .error (.reservedKey (cls ++ sel)) ↔
      (cls = 7 ∨ ((cls = 0 ∨ cls = 1) ∧ sel ∉ [0x00, 0x04, 0x08, 0x0C, 0x10, 0x14]) ∨ ((cls = 2 ∨ cls = 4 ∨ cls = 6) ∧ 0x01 < sel) ∨
        (cls = 3 ∧ sel ≠ 0x00) ∨ (cls = 5 ∧ 0x02 < sel))

/-- R51, R71: a register access decodes only if it is 32 bits wide, at every register of the window. -/
def Obligations.RegisterWidthIsThirtyTwo : Prop :=
  ∀ (width : Nat) (offset : BitVec 8) (v : Word), width ≠ 32 → offset ∈ [0x00, 0x04, 0x08, 0x0C, 0x10, 0x14] →
    decode (Transaction.busRead width offset) = .error (.accessWidth width) ∧
    decode (Transaction.busWrite width offset v) = .error (.accessWidth width)

/-- R63 to R73: the pair an operation is presented as decodes to it, with every operand. -/
def Obligations.DecodeOfEncode : Prop :=
  ∀ i : Instr, i.WellFormed → decode (encode i) = .ok i

/-- R63, R66, R75: a key "fully names its operation", so a pair that decodes has the key its operation is encoded with. That a pair with
operands of another format than its key's does not decode is the model's choice (notes/assumptions/7.md), and so is that a tick with
a host frame of another length does not (notes/assumptions/8.md): by these the whole pair is the encoded one and the operation is well
formed. -/
def Obligations.EncodeOfDecode : Prop :=
  ∀ (t : Transaction) (i : Instr), decode t = .ok i → encode i = t ∧ i.WellFormed

/-! ### One step -/

/-- R52: step performs the oldest presented operation, in the state without it. -/
def Obligations.StepPerformsOldestPresented : Prop :=
  ∀ (s : State) (t : Transaction) (rest : List Transaction) (i : Instr), s.pending = t :: rest → decode t = .ok i →
    step s = exec i { s with pending := rest }

/-- R71, R161: a presented pair with a reserved key or a register width other than 32 is refused: the engine is unchanged and the refusal
mark is set. That operands of another format and host frames of another length are refused too is the model's choice
(notes/assumptions/7.md, notes/assumptions/8.md), and so are the list of presented pairs, the recorded output and the mark's place in
State (notes/assumptions/2.md, notes/assumptions/3.md, notes/assumptions/5.md). -/
def Obligations.UndecodableIsRefused : Prop :=
  ∀ (s : State) (t : Transaction) (rest : List Transaction) (why : DecodeError), s.pending = t :: rest → decode t = .error why →
    step s = .next { s with pending := rest, refusalMark := true, trace := s.trace ++ [.refused (.illegal why)] }

/-- R8, R53, R160, R161: every step completes with a next state: it takes the oldest presented operation and adds its one output, and with
no operation presented it changes nothing. The spec's outcomes are a new state, a fault or a refusal; that a fault and a refusal are next
states as well is the model's reading (notes/assumptions/4.md, notes/assumptions/5.md), and the list of presented operations, the step that
changes nothing and the recorded outputs are its choice (notes/assumptions/2.md, notes/assumptions/3.md). -/
def Obligations.EveryStepCompletes : Prop :=
  ∀ s : State,
    (s.pending = [] → step s = .next s) ∧
    (s.pending ≠ [] → ∃ t o, step s = .next t ∧ t.pending = s.pending.tail ∧ t.trace = s.trace ++ [o])

/-! ### Register reads -/

/-- R79: RD.CS0. -/
def Obligations.ReadCs0ReturnsFlagsClearsLatches : Prop :=
  ∀ s : State, s.engine.life = .live → ∃ v : Word,
    Performs .rdCs0 s { s.engine with ovr := false, unr := false } { reply := .word v } ∧
    v.getLsbD 0 = s.engine.txen ∧ v.getLsbD 1 = s.engine.rxen ∧ v.getLsbD 2 = s.engine.ovr ∧ v.getLsbD 3 = s.engine.unr ∧
    v.getLsbD 4 = s.engine.full ∧ v.getLsbD 5 = decide (s.engine.occ = 0) ∧ (∀ j, 6 ≤ j → v.getLsbD j = false) ∧
    ¬(v.getLsbD 4 = true ∧ v.getLsbD 5 = true)

/-- R80, R81, R82, R83: RD.CS1, RD.CS2, RD.CS3 and RD.CADDR return the thresholds, the occupancy and the codec address, zero-extended,
and change nothing. -/
def Obligations.PlainReadsReturnTheirFields : Prop :=
  ∀ s : State, s.engine.life = .live →
    (∃ v : Word, v.toNat = s.engine.txthr.toNat ∧ Performs .rdCs1 s s.engine { reply := .word v }) ∧
    (∃ v : Word, v.toNat = s.engine.rxthr.toNat ∧ Performs .rdCs2 s s.engine { reply := .word v }) ∧
    (∃ v : Word, v.toNat = s.engine.occ ∧ Performs .rdCs3 s s.engine { reply := .word v }) ∧
    (∃ v : Word, v.toNat = s.engine.caddr.toNat ∧ Performs .rdCaddr s s.engine { reply := .word v })

/-- R84: RD.CDATA returns the selected codec register, the rate for index 7, never one outside RATES, and changes nothing. -/
def Obligations.ReadCodecData : Prop :=
  ∀ s : State, s.engine.life = .live →
    (s.engine.caddr = 7 → Performs .rdCdata s s.engine { reply := .word s.engine.rate } ∧
      (s.engine.Inv → s.engine.rate ∈ Config.rates)) ∧
    (∀ h : s.engine.caddr.toNat < 7, Performs .rdCdata s s.engine { reply := .word s.engine.codec[s.engine.caddr.toNat] })

/-! ### Register writes -/

/-- R86: WR.CS0. -/
def Obligations.WriteCs0SetsEnablesAndFlushes : Prop :=
  ∀ (s : State) (v : Word), s.engine.life = .live →
    Performs (.wrCs0 v) s
      (if (s.engine.txen = false ∧ v.getLsbD 0 = true) ∨ (s.engine.rxen = false ∧ v.getLsbD 1 = true) then
        { s.engine with txen := v.getLsbD 0, rxen := v.getLsbD 1, wp := 0, rp := 0, full := false }
      else { s.engine with txen := v.getLsbD 0, rxen := v.getLsbD 1 }) {}

/-- R87, R88: WR.CS1 and WR.CS2 store bits 14:0. -/
def Obligations.WriteThresholds : Prop :=
  ∀ (s : State) (v : Word), s.engine.life = .live →
    (∃ f : BitVec 15, f.toNat = v.toNat % 2 ^ 15 ∧ Performs (.wrCs1 v) s { s.engine with txthr := f } {}) ∧
    (∃ f : BitVec 15, f.toNat = v.toNat % 2 ^ 15 ∧ Performs (.wrCs2 v) s { s.engine with rxthr := f } {})

/-- R89: WR.CS3 has no effect. -/
def Obligations.WriteCs3HasNoEffect : Prop :=
  ∀ (s : State) (v : Word), s.engine.life = .live → Performs (.wrCs3 v) s s.engine {}

/-- R90: WR.CADDR selects the codec register numbered by bits 2:0. -/
def Obligations.WriteCodecAddress : Prop :=
  ∀ (s : State) (v : Word), s.engine.life = .live →
    ∃ a : BitVec 3, a.toNat = v.toNat % 8 ∧ Performs (.wrCaddr v) s { s.engine with caddr := a } {}

/-- R91: WR.CDATA stores all 32 bits, or the clamped rate for index 7; it returns nothing and pulses nothing. -/
def Obligations.WriteCodecData : Prop :=
  ∀ (s : State) (v : Word), s.engine.life = .live →
    (∀ h : s.engine.caddr.toNat < 7,
      Performs (.wrCdata v) s { s.engine with codec := s.engine.codec.set s.engine.caddr.toNat v } {}) ∧
    (s.engine.caddr = 7 → ∃ met, Performs (.wrCdata v) s { s.engine with rate := clampRate v } { conditions := met })

/-- R118: the clamped rate is supported, no supported rate is nearer, and of two equally near it is the larger. -/
def Obligations.ClampIsNearestSupportedRate : Prop :=
  ∀ v : Word, clampRate v ∈ Config.rates ∧
    ∀ r ∈ Config.rates,
      ((v.toNat : Int) - (clampRate v).toNat).natAbs ≤ ((v.toNat : Int) - r.toNat).natAbs ∧
      (((v.toNat : Int) - r.toNat).natAbs = ((v.toNat : Int) - (clampRate v).toNat).natAbs → r ≤ clampRate v)

/-- R118: the table of Clamp. -/
def Obligations.ClampTable : Prop :=
  ∀ v : Word, (clampRate v).toNat =
    if v.toNat ≤ 8084 then 7350 else if v.toNat ≤ 9922 then 8820 else if v.toNat ≤ 12862 then 11025
    else if v.toNat ≤ 16169 then 14700 else if v.toNat ≤ 19844 then 17640 else if v.toNat ≤ 25724 then 22050
    else if v.toNat ≤ 36749 then 29400 else 44100

/-- R92: a codec register written through the address/data pair reads back, and again after its address is written again. -/
def Obligations.CodecPairReadsBack : Prop :=
  ∀ (s : State) (i v : Word), s.engine.life = .live → i.toNat % 8 < 7 →
    ∃ t, runOps (pseudoCodecWr i v ++ [.rdCdata] ++ pseudoCodecRd i) s = .next t ∧
      t.returned = s.returned ++ [.nothing, .nothing, .word v, .nothing, .word v]

/-- R77, R118, R119: setrate then getrate returns the clamped rate, and the ring, the latches and the enables are unchanged. -/
def Obligations.SetRateGetRate : Prop :=
  ∀ (s : State) (r : Word), s.engine.life = .live →
    ∃ t, runOps (pseudoSetRate r ++ pseudoGetRate) s = .next t ∧
      t.returned = s.returned ++ [.nothing, .nothing, .nothing, .word (clampRate r)] ∧
      t.engine = { s.engine with caddr := 7, rate := clampRate r }

/-- R55: a register write done twice leaves the state the first one left. -/
def Obligations.RegisterWritesIdempotent : Prop :=
  ∀ (s : State) (v : Word), s.engine.life = .live →
    ∀ i ∈ [Instr.wrCs0 v, .wrCs1 v, .wrCs2 v, .wrCs3 v, .wrCaddr v, .wrCdata v],
      ∃ t u, exec i s = .next t ∧ exec i t = .next u ∧ u.engine = t.engine

/-! ### The ring primitives -/

/-- R99: RING.PUSH. -/
def Obligations.RingPushStoresAcceptedBytes : Prop :=
  ∀ (s : State) (data : List Byte), s.engine.life = .live → s.engine.ring.wf →
    let a := min data.length (Config.ringCapacity - s.engine.occ)
    ∃ m, StoresAt s.engine.ring m s.engine.wp data a ∧
      Performs (.ringPush data) s
        { s.engine with
          ring := m
          wp := (s.engine.wp + a) % Config.ringCapacity
          full := if 0 < a ∧ (s.engine.wp + a) % Config.ringCapacity = s.engine.rp then true else s.engine.full }
        { reply := .pushed a }

/-- R101: RING.POP. -/
def Obligations.RingPopReturnsBytesAtReadCursor : Prop :=
  ∀ (s : State) (n : Nat), s.engine.life = .live →
    let k := min n s.engine.occ
    ∃ out : List Byte, out.length = k ∧
      (∀ i < k, out[i]? = some (s.engine.ring.read ((s.engine.rp + i) % Config.ringCapacity))) ∧
      Performs (.ringPop n) s
        { s.engine with
          rp := (s.engine.rp + k) % Config.ringCapacity
          full := if 0 < k then false else s.engine.full }
        { reply := .popped out }

/-- R26: the occupancy and its bounds. -/
def Obligations.OccupancyBounds : Prop :=
  ∀ e : Engine, e.RingInv →
    (e.full = true → e.occ = Config.ringCapacity) ∧
    (e.full = false → e.occ = (e.wp + Config.ringCapacity - e.rp) % Config.ringCapacity) ∧
    e.occ ≤ Config.ringCapacity ∧ (e.occ = Config.ringCapacity ↔ e.full = true) ∧ e.free = Config.ringCapacity - e.occ ∧
    e.wp = (e.rp + e.occ) % Config.ringCapacity

/-- R105, R106: over every sequence of pushes and pops every operation completes, the occupancy plus the bytes popped is the
occupancy at the start plus the bytes accepted, and the bytes come out in the order they went in. -/
def Obligations.RingSequencesKeepCountAndOrder : Prop :=
  ∀ (ops : List RingOp) (s : State), s.engine.life = .live → s.engine.RingInv →
    ∃ t, runOps (ops.map RingOp.instr) s = .next t ∧
      t.engine.RingInv ∧ t.engine.occ ≤ Config.ringCapacity ∧
      t.engine.occ + (poppedBytes ops s.engine).length = s.engine.occ + (acceptedBytes ops s.engine).length ∧
      poppedBytes ops s.engine ++ t.engine.contents = s.engine.contents ++ acceptedBytes ops s.engine

/-- R100: the corner cases of a push. -/
def Obligations.PushCornerCases : Prop :=
  ∀ (s : State) (data : List Byte), s.engine.life = .live → s.engine.RingInv →
    ∃ t a, exec (.ringPush data) s = .next t ∧ t.returned = s.returned ++ [.pushed a] ∧
      (data = [] → a = 0 ∧ t.engine = s.engine) ∧
      (s.engine.full = true → a = 0 ∧ t.engine = s.engine) ∧
      (0 < a → a = Config.ringCapacity - s.engine.occ → t.engine.wp = t.engine.rp ∧ t.engine.full = true) ∧
      (a < Config.ringCapacity - s.engine.occ → t.engine.full = false) ∧
      t.engine.contents = s.engine.contents ++ data.take a

/-- R102, R103: the corner cases of a pop, which returns the oldest bytes, each once. -/
def Obligations.PopCornerCases : Prop :=
  ∀ (s : State) (n : Nat), s.engine.life = .live → s.engine.RingInv →
    ∃ t out, exec (.ringPop n) s = .next t ∧ t.returned = s.returned ++ [.popped out] ∧
      (n = 0 → out = [] ∧ t.engine = s.engine) ∧
      (s.engine.occ = 0 → out = [] ∧ t.engine = s.engine) ∧
      (s.engine.full = true → out.length = min n Config.ringCapacity) ∧
      (n = s.engine.occ → t.engine.rp = t.engine.wp ∧ t.engine.full = false) ∧
      t.engine.ring = s.engine.ring ∧ s.engine.contents = out ++ t.engine.contents ∧ out.length = min n s.engine.occ

/-- R31, R48: no operation other than a transmit transfer, a tick, RING.PUSH and CREATE changes a byte of the ring. -/
def Obligations.RingBytesChangedOnlyByPushes : Prop :=
  ∀ (i : Instr) (s t : State), exec i s = .next t →
    i.opcode ∉ [Opcode.dmaTx, .tick, .ringPush, .create] → ∀ x, t.engine.ring.read x = s.engine.ring.read x

/-! ### DMA transfers -/

/-- R109, R110: DMA.TX with a bound channel, transmit enabled or not, and without one. -/
def Obligations.TransmitTransfer : Prop :=
  ∀ (s : State) (data : List Byte), s.engine.life = .live → s.engine.ring.wf →
    (s.engine.bindTx = none → RaisesBindingError (.dmaTx data) s (.unboundDirection .tx)) ∧
    (s.engine.bindTx ≠ none → s.engine.txen = false → Performs (.dmaTx data) s s.engine { reply := .accepted 0 }) ∧
    (s.engine.bindTx ≠ none → s.engine.txen = true →
      let a := min data.length (Config.ringCapacity - s.engine.occ)
      let fires := decide (a < data.length) && !s.engine.ovr
      ∃ m met, StoresAt s.engine.ring m s.engine.wp data a ∧
        Performs (.dmaTx data) s
          { s.engine with
            ring := m
            wp := (s.engine.wp + a) % Config.ringCapacity
            full := if 0 < a ∧ (s.engine.wp + a) % Config.ringCapacity = s.engine.rp then true else s.engine.full
            ovr := s.engine.ovr || decide (a < data.length) }
          { reply := .accepted a, pulses := { dev := fires, txdma := fires }, conditions := met })

/-- R112, R113: DMA.RX with a bound channel, receive enabled or not, and without one. -/
def Obligations.ReceiveTransfer : Prop :=
  ∀ (s : State) (n : Nat), s.engine.life = .live →
    (s.engine.bindRx = none → RaisesBindingError (.dmaRx n) s (.unboundDirection .rx)) ∧
    (s.engine.bindRx ≠ none → s.engine.rxen = false →
      Performs (.dmaRx n) s s.engine { reply := .received (List.replicate n 0) }) ∧
    (s.engine.bindRx ≠ none → s.engine.rxen = true →
      let k := min n s.engine.occ
      ∃ out met, out.length = n ∧
        (∀ i < n, out[i]? = some (if i < k then s.engine.ring.read ((s.engine.rp + i) % Config.ringCapacity) else 0)) ∧
        Performs (.dmaRx n) s
          { s.engine with
            rp := (s.engine.rp + k) % Config.ringCapacity
            full := if 0 < k then false else s.engine.full
            unr := s.engine.unr || decide (k < n) }
          { reply := .received out, pulses := { dev := decide (k < n) && !s.engine.unr }, conditions := met })

/-- R103, R106: an enabled transmit transfer appends the accepted bytes to the ring's contents; an enabled receive transfer returns the
oldest bytes and leaves the rest. -/
def Obligations.TransfersKeepByteOrder : Prop :=
  ∀ s t : State, s.engine.life = .live → s.engine.RingInv →
    (∀ data, s.engine.bindTx ≠ none → s.engine.txen = true → exec (.dmaTx data) s = .next t →
      t.engine.contents = s.engine.contents ++ data.take (Config.ringCapacity - s.engine.occ)) ∧
    (∀ n, s.engine.bindRx ≠ none → s.engine.rxen = true → exec (.dmaRx n) s = .next t →
      t.engine.contents = s.engine.contents.drop n ∧
      t.returned = s.returned ++ [.received (s.engine.contents.take n ++ List.replicate (n - s.engine.occ) 0)])

/-! ### The tick -/

/-- R121, R122, R124: TICK runs the playback half, then the capture half, each if its direction is enabled, and its pulse set is the
union of both. -/
def Obligations.TickRunsBothHalves : Prop :=
  ∀ (s : State) (host : List Byte), s.engine.life = .live → s.engine.ring.wf → host.length = Config.frameBytes →
    ∃ (m e : Engine) (g : Frame) (p c : Effects) (met : List Condition), g.toList = host ∧
      PlaybackRule s.engine m p ∧ CaptureRule m e g c ∧
      Performs (.tick host) s e
        { pulses := { dev := p.pulses.dev || c.pulses.dev, txdma := p.pulses.txdma, rxdma := c.pulses.rxdma }
          sink := p.sink, drawn := c.drawn, conditions := met }

/-- R126: a tick with neither direction enabled changes nothing and presents nothing. -/
def Obligations.IdleTickChangesNothing : Prop :=
  ∀ (s : State) (host : List Byte), s.engine.life = .live → s.engine.txen = false → s.engine.rxen = false →
    Performs (.tick host) s s.engine {}

/-- R131 (b), (e): a tick with both directions enabled never overruns, so no tick changes both latches from 0 to 1. -/
def Obligations.TickNeverSetsBothLatches : Prop :=
  ∀ (s t : State) (host : List Byte), s.engine.life = .live → s.engine.RingInv → exec (.tick host) s = .next t →
    (s.engine.txen = true → s.engine.rxen = true → t.engine.ovr = s.engine.ovr) ∧
    ¬(s.engine.ovr = false ∧ t.engine.ovr = true ∧ s.engine.unr = false ∧ t.engine.unr = true)

/-- R106, R122, R124: a tick removes the oldest frame's worth of bytes if transmit is enabled, then appends what fits of the captured
frame if receive is enabled. The captured bytes are those of the OPEN parameter CODEC_IN (notes/assumptions/9.md). -/
def Obligations.TickKeepsByteOrder : Prop :=
  ∀ (s t : State) (g : Frame), s.engine.life = .live → s.engine.RingInv → exec (.tick g.toList) s = .next t →
    let kept := if s.engine.txen then s.engine.contents.drop Config.frameBytes else s.engine.contents
    t.engine.contents =
      if s.engine.rxen then kept ++ (Config.codecIn s.engine.codec g).toList.take (Config.ringCapacity - kept.length) else kept

/-- R155, R156, R131 (d): no TXDMA from a tick that starts at or below the threshold, or with TXTHR ≥ C; no RXDMA with RXTHR = 0 or
RXTHR > C, or, with transmit disabled, from a tick that starts at or above the threshold. -/
def Obligations.ThresholdEventsDoNotRepeat : Prop :=
  ∀ (s t : State) (host : List Byte) (o : Output), s.engine.RingInv → exec (.tick host) s = .next t →
    t.trace = s.trace ++ [o] →
    (s.engine.occ ≤ s.engine.txthr.toNat ∨ Config.ringCapacity ≤ s.engine.txthr.toNat → o.pulses.txdma = false) ∧
    (s.engine.rxthr = 0 ∨ Config.ringCapacity < s.engine.rxthr.toNat ∨
      (s.engine.txen = false ∧ s.engine.rxthr.toNat ≤ s.engine.occ) → o.pulses.rxdma = false)

/-- R122, R127: playback ticks alone empty a ring of `occ` bytes in as many ticks as it holds frames, a partial one included. -/
def Obligations.TicksDrainTheRing : Prop :=
  ∀ (n : Nat) (s : State) (host : List Byte), s.engine.life = .live → s.engine.RingInv → s.engine.txen = true →
    s.engine.rxen = false → s.engine.occ ≤ n * Config.frameBytes →
    ∃ t, runOps (List.replicate n (.tick host)) s = .next t ∧ t.engine.occ = 0

/-- R130: the sample rate affects nothing in DMA.TX, DMA.RX and TICK: with another rate they do and present the same. -/
def Obligations.RateDoesNotAffectStreaming : Prop :=
  ∀ (i : Instr) (s t : State) (r : Word), i.opcode ∈ [Opcode.dmaTx, .dmaRx, .tick] → exec i s = .next t →
    exec i { s with engine := { s.engine with rate := r } } = .next { t with engine := { t.engine with rate := r } } ∧
      t.engine.rate = s.engine.rate

/-! ### Binding and life cycle -/

/-- R135: BIND.DMA, its success and its faults in the order they are tested. -/
def Obligations.RegisterDma : Prop :=
  ∀ (s : State) (mgr tx rx : Option ChanId), s.engine.life = .live →
    (mgr = none ∨ tx = none ∨ rx = none → RaisesBindingError (.bindDma mgr tx rx) s .noChannel) ∧
    (mgr ≠ none → tx ≠ none → rx ≠ none → s.engine.dmaReg = true → RaisesBindingError (.bindDma mgr tx rx) s .alreadyRegistered) ∧
    (mgr ≠ none → tx ≠ none → rx ≠ none → s.engine.dmaReg = false → s.engine.txen = true ∨ s.engine.rxen = true →
      RaisesBindingError (.bindDma mgr tx rx) s .activeEngine) ∧
    (mgr ≠ none → tx ≠ none → rx ≠ none → s.engine.dmaReg = false → s.engine.txen = false → s.engine.rxen = false →
      Performs (.bindDma mgr tx rx) s { s.engine with bindTx := tx, bindRx := rx, dmaReg := true } {})

/-- R137: BIND.CH, its success and its faults in the order they are tested. -/
def Obligations.RegisterChannel : Prop :=
  ∀ (s : State) (dir : Dir) (ch : ChanId), s.engine.life = .live →
    RaisesBindingError (.bindCh dir none) s .noChannel ∧
    (s.engine.txen = true ∨ s.engine.rxen = true → RaisesBindingError (.bindCh dir (some ch)) s .activeEngine) ∧
    (s.engine.txen = false → s.engine.rxen = false →
      Performs (.bindCh .tx (some ch)) s { s.engine with bindTx := some ch } {} ∧
      Performs (.bindCh .rx (some ch)) s { s.engine with bindRx := some ch } {})

/-- R139, R44: CREATE sets every field to its value after creation, whatever it was, and opens the voice. -/
def Obligations.CreateSetsEveryField : Prop :=
  ∀ s : State, s.engine.life = .absent →
    ∃ e : Engine, Performs .create s e { voice := some (.openVoice .s16 2) } ∧
      e.life = .live ∧ (∀ x, e.ring.read x = 0) ∧ e.wp = 0 ∧ e.rp = 0 ∧ e.full = false ∧ e.txen = false ∧ e.rxen = false ∧
      e.ovr = false ∧ e.unr = false ∧ e.txthr = 0 ∧ e.rxthr = 0 ∧ e.caddr = 0 ∧ (∀ (j : Nat) (h : j < 7), e.codec[j] = 0) ∧
      e.rate = 44100 ∧ e.bindTx = none ∧ e.bindRx = none ∧ e.dmaReg = false ∧ e.voice = .opened

/-- R173, R44: the machine right after its power-on initialization is what CREATE leaves of the engine, and CS0 then reads
0x00000020, CS1, CS2, CS3, CODEC_ADDR and CODEC_DATA read 0. That State.reset is the state after creation is the model's reading
(notes/assumptions/1.md). -/
def Obligations.RegistersReadAfterCreation : Prop :=
  (∃ t, exec .create State.absent = .next t ∧ t.engine = State.reset.engine) ∧
    ∃ t, runOps [.rdCs0, .rdCs1, .rdCs2, .rdCs3, .rdCaddr, .rdCdata] State.reset = .next t ∧
      t.returned = [.word 0x20, .word 0, .word 0, .word 0, .word 0, .word 0] ∧ t.engine = State.reset.engine

/-- R143: RESET. -/
def Obligations.ResetRestoresRegistersKeepsBindings : Prop :=
  ∀ s : State, s.engine.life = .live → ∃ zero : Vector Word 7, (∀ (j : Nat) (h : j < 7), zero[j] = 0) ∧
    Performs .reset s
      { s.engine with
        wp := 0, rp := 0, full := false, txen := false, rxen := false, ovr := false, unr := false, txthr := 0, rxthr := 0,
        caddr := 0, codec := zero, rate := 44100 } {}

/-- R145: TEARDOWN. -/
def Obligations.TeardownReleasesVoiceAndBindings : Prop :=
  ∀ s : State, s.engine.life = .live →
    Performs .teardown s { s.engine with voice := .closed, bindTx := none, bindRx := none, life := .gone }
      { voice := some .closeVoice }

/-- R133: the table of admitted operations: an operation the life state does not admit is refused; one it admits is not, and leaves
the refusal mark as it was. -/
def Obligations.LifeStateAdmission : Prop :=
  ∀ (i : Instr) (s : State),
    (admits s.engine.life i.opcode = false → IsRefused i s) ∧
    (admits s.engine.life i.opcode = true →
      ∃ t o, exec i s = .next t ∧ t.trace = s.trace ++ [o] ∧ t.refusalMark = s.refusalMark ∧ ∀ why, o ≠ .refused why)

/-- R144, R146, R160: a Faulted or Gone engine stays exactly as it is, whatever is presented to it, and every operation is refused. -/
def Obligations.FaultedAndGoneAreFinal : Prop :=
  ∀ (ops : List Instr) (s : State), s.engine.life = .faulted ∨ s.engine.life = .gone →
    ∃ t, runOps ops s = .next t ∧ t.engine = s.engine ∧ t.refusalMark = (s.refusalMark || !ops.isEmpty) ∧
      t.pulseSets = s.pulseSets ++ List.replicate ops.length ({ } : Pulses)

/-- R160, R148: whenever an operation raises BindingError it is a registration or a transfer in Live, only the life state changes,
nothing is returned and no line is pulsed. -/
def Obligations.BindingErrorHasNoOtherEffect : Prop :=
  ∀ (i : Instr) (s t : State) (why : Fault), exec i s = .next t → t.trace = s.trace ++ [.faulted why] →
    s.engine.life = .live ∧ i.opcode ∈ [Opcode.bindDma, .bindCh, .dmaTx, .dmaRx] ∧
      t.engine = { s.engine with life := .faulted } ∧ t.refusalMark = s.refusalMark ∧ t.pending = s.pending ∧
      (Output.faulted why).pulses = {} ∧ (Output.faulted why).reply = .nothing

/-! ### Whole-machine rules -/

/-- R41, R38, R37: the invariants of the engine hold after every step from every state in which they hold. -/
def Obligations.StepKeepsEngineInvariant : Prop :=
  ∀ s t : State, s.engine.Inv → step s = .next t → t.engine.Inv

/-- R41: the invariants hold right after creation and before it. The fields before creation are the model's choice
(notes/assumptions/10.md). -/
def Obligations.EngineInvariantAtStart : Prop :=
  State.reset.engine.Inv ∧ State.absent.engine.Inv

/-- R153: an operation pulses DEV exactly when it changes OVR or UNR from 0 to 1. -/
def Obligations.DevPulseExactlyOnLatchRise : Prop :=
  ∀ (i : Instr) (s t : State) (o : Output), exec i s = .next t → t.trace = s.trace ++ [o] →
    o.pulses.dev = ((!s.engine.ovr && t.engine.ovr) || (!s.engine.unr && t.engine.unr))

/-- R148 to R151: which operation meets which condition, and the latch that records it. That the conditions met stand in an operation's
output is the model's choice (notes/assumptions/11.md). -/
def Obligations.ConditionsMet : Prop :=
  ∀ (i : Instr) (s t : State) (o : Output), exec i s = .next t → t.trace = s.trace ++ [o] →
    (.configurationError ∈ o.conditions ↔
      s.engine.life = .live ∧ s.engine.caddr = 7 ∧ ∃ v, i = .wrCdata v ∧ v ∉ Config.rates) ∧
    (.overrun ∈ o.conditions → i.opcode ∈ [Opcode.dmaTx, .tick] ∧ t.engine.ovr = true) ∧
    (.underrun ∈ o.conditions → i.opcode ∈ [Opcode.dmaRx, .tick] ∧ t.engine.unr = true) ∧
    (s.engine.ovr = false → t.engine.ovr = true → .overrun ∈ o.conditions) ∧
    (s.engine.unr = false → t.engine.unr = true → .underrun ∈ o.conditions) ∧
    (.bindingError ∈ o.conditions ↔ s.engine.life ≠ .faulted ∧ t.engine.life = .faulted)

/-- R154, R157, R158: TXDMA comes only from a DMA.TX that raises OVR or from a tick with transmit enabled, RXDMA only from a tick with
receive enabled, and no operation but DMA.TX, DMA.RX and TICK pulses any line. -/
def Obligations.PulseSources : Prop :=
  ∀ (i : Instr) (s t : State) (o : Output), exec i s = .next t → t.trace = s.trace ++ [o] →
    (o.pulses.txdma = true →
      (i.opcode = .dmaTx ∧ s.engine.ovr = false ∧ t.engine.ovr = true) ∨ (i.opcode = .tick ∧ s.engine.txen = true)) ∧
    (o.pulses.rxdma = true → i.opcode = .tick ∧ s.engine.rxen = true) ∧
    (i.opcode ∉ [Opcode.dmaTx, .dmaRx, .tick] → o.pulses = {})

/-- R35: a latch that is set stays set under every operation but a CS0 read, RESET and CREATE. -/
def Obligations.LatchesClearedOnlyByCs0ReadOrReset : Prop :=
  ∀ (i : Instr) (s t : State), exec i s = .next t → clearsLatches i = false →
    (s.engine.ovr = true → t.engine.ovr = true) ∧ (s.engine.unr = true → t.engine.unr = true)

/-- R159: over any operations among which no latch is cleared, DEV is pulsed at most once for each latch that was clear at the start,
and DMA.TX pulses TXDMA at most once, and only if OVR was clear. -/
def Obligations.PulsesCoalesceBetweenClears : Prop :=
  ∀ (ops : List Instr) (s t : State), (∀ i ∈ ops, clearsLatches i = false) → runOps ops s = .next t →
    ∃ outs, t.trace = s.trace ++ outs ∧ outs.length = ops.length ∧
      devPulses outs ≤ (!s.engine.ovr).toNat + (!s.engine.unr).toNat ∧
      transmitOverrunPulses outs ≤ (!s.engine.ovr).toNat

/-- R40, R36: the enables change only by a CS0 write, RESET or CREATE. -/
def Obligations.EnablesChangedOnlyByCs0Write : Prop :=
  ∀ (i : Instr) (s t : State), exec i s = .next t → i.opcode ∉ [Opcode.wrCs0, .reset, .create] →
    t.engine.txen = s.engine.txen ∧ t.engine.rxen = s.engine.rxen

/-- The codec address changes only by WR.CADDR (R90, R92, R93), RESET or CREATE, so DMA and tick operations never touch it; codec
registers and the rate only by WR.CDATA (R29, R30, R91), RESET (R143) or CREATE (R139); the thresholds only by their own writes (R23,
R24, R87, R88), RESET or CREATE. That no other operation writes them is an inference from the rules of the other operations, each of which
lists what it changes. -/
def Obligations.ConfigurationChangedOnlyByItsWrites : Prop :=
  ∀ (i : Instr) (s t : State), exec i s = .next t → i.opcode ∉ [Opcode.reset, .create] →
    (i.opcode ≠ .wrCaddr → t.engine.caddr = s.engine.caddr) ∧
    (i.opcode ≠ .wrCdata → t.engine.codec = s.engine.codec ∧ t.engine.rate = s.engine.rate) ∧
    (i.opcode ≠ .wrCs1 → t.engine.txthr = s.engine.txthr) ∧ (i.opcode ≠ .wrCs2 → t.engine.rxthr = s.engine.rxthr)

/-- R37, R138, R143: the bindings change only by BIND.DMA, BIND.CH, CREATE or TEARDOWN, the registration flag only by BIND.DMA or CREATE,
the voice only by CREATE or TEARDOWN; RESET keeps them all. -/
def Obligations.BindingsChangedOnlyByRegistration : Prop :=
  ∀ (i : Instr) (s t : State), exec i s = .next t →
    (i.opcode ∉ [Opcode.bindDma, .bindCh, .create, .teardown] → t.engine.bindTx = s.engine.bindTx ∧ t.engine.bindRx = s.engine.bindRx) ∧
    (i.opcode ∉ [Opcode.bindDma, .create] → t.engine.dmaReg = s.engine.dmaReg) ∧
    (i.opcode ∉ [Opcode.create, .teardown] → t.engine.voice = s.engine.voice)

/-- R161, R71: the refusal mark is kept for the run: no operation clears it. -/
def Obligations.RefusalMarkIsKept : Prop :=
  ∀ (ops : List Instr) (s t : State), runOps ops s = .next t → s.refusalMark = true → t.refusalMark = true

/-- R42: what an operation does to the engine and presents does not depend on the refusal mark, on the outputs of earlier operations or on
the operations still presented. That these stand in State is the model's choice (notes/assumptions/2.md, notes/assumptions/3.md). -/
def Obligations.OutputsAreNeverRead : Prop :=
  ∀ (i : Instr) (s t s' : State) (o : Output), s'.engine = s.engine → exec i s = .next t → t.trace = s.trace ++ [o] →
    ∃ t', exec i s' = .next t' ∧ t'.engine = t.engine ∧ t'.trace = s'.trace ++ [o] ∧ t'.pending = s'.pending

/-- R142, R171: an operation presented to one instance changes no other. That instances are a list and that an operation to a number that is
no instance changes nothing is the model's choice (notes/assumptions/12.md). -/
def Obligations.InstancesDoNotInterfere : Prop :=
  ∀ (m : Instances) (k : Nat) (i : Instr), ∃ m', m.execAt k i = .next m' ∧ m'.length = m.length ∧
    (∀ j, j ≠ k → m'[j]? = m[j]?) ∧
    ∀ s, m[k]? = some s → ∃ t, exec i s = .next t ∧ m'[k]? = some t
end

