-- ==== Sys2Proof/Laws/Ops.lean ====
section
/-! SUPPORT. What the shared operations do, said once: the ring memory and its canonical form, the three ring primitives
over the ring's contents, the life-cycle guard, and fetching. -/

namespace Sys2Proof.Machine

/-! ### The ring memory -/

@[simp] theorem Memory.read_nil (a : Nat) : Memory.read [] a = Config.ringFill := rfl

theorem Memory.read_cell_append (m : Memory) (a x : Nat) (v : Byte) (h : ∀ c ∈ m, a < c.1) :
    Memory.read (Memory.cell a v ++ m) x = if x = a then v else m.read x := by
  have absent : ∀ m : Memory, (∀ c ∈ m, a < c.1) → m.read a = Config.ringFill := by
    intro m
    induction m with
    | nil => intro _; rfl
    | cons c rest ih =>
      intro hm
      have hc := hm c (by simp)
      simp [Memory.read, show c.1 ≠ a by omega, ih fun d hd => hm d (by simp [hd])]
  unfold Memory.cell
  split <;> rename_i hv
  · subst hv
    by_cases hx : x = a
    · simpa [hx] using absent m h
    · simp [hx]
  · by_cases hx : x = a
    · simp [Memory.read, hx]
    · simp [Memory.read, hx, Ne.symm hx]

/-- A read after a write: the byte written at its index, the byte from before at every other. -/
theorem Memory.read_write (m : Memory) (hm : m.wf) (a x : Nat) (v : Byte) :
    (m.write a v).read x = if x = a then v else m.read x := by
  induction m with
  | nil => simpa [Memory.write] using Memory.read_cell_append [] a x v (by simp)
  | cons c rest ih =>
    obtain ⟨k, b⟩ := c
    obtain ⟨hs, hc⟩ := hm
    rw [List.pairwise_cons] at hs
    have hrest : Memory.wf rest := ⟨hs.2, fun c h => hc c (by simp [h])⟩
    unfold Memory.write
    split
    · rename_i hlt
      apply Memory.read_cell_append
      intro d hd
      rcases List.mem_cons.mp hd with rfl | hd
      · exact hlt
      · exact hlt.trans (hs.1 d hd)
    · split
      · rename_i _ heq
        subst heq
        rw [Memory.read_cell_append rest a x v fun d hd => hs.1 d hd]
        by_cases hx : x = a
        · simp [hx]
        · simp [hx, Memory.read, Ne.symm hx]
      · rename_i hlt hne
        by_cases hk : k = x
        · simp [Memory.read, hk, show x ≠ a by omega]
        · simp [Memory.read, hk, ih hrest]

theorem Memory.mem_write {m : Memory} {a : Nat} {v : Byte} {c : Host.Cell} (h : c ∈ m.write a v) :
    c ∈ m ∨ (c = (a, v) ∧ v ≠ Config.ringFill) := by
  have hcell : ∀ c ∈ Memory.cell a v, c = (a, v) ∧ v ≠ Config.ringFill := by
    intro c; unfold Memory.cell; split <;> simp_all
  induction m with
  | nil => exact .inr (hcell c h)
  | cons d rest ih =>
    unfold Memory.write at h
    split at h
    · rcases List.mem_append.mp h with h | h
      · exact .inr (hcell c h)
      · exact .inl h
    · split at h
      · rcases List.mem_append.mp h with h | h
        · exact .inr (hcell c h)
        · exact .inl (List.mem_cons_of_mem _ h)
      · rcases List.mem_cons.mp h with h | h
        · exact .inl (by simp [h])
        · exact (ih h).imp (List.mem_cons_of_mem _) id

/-- A write keeps the canonical form. -/
theorem Memory.wf_write {m : Memory} (hm : m.wf) {a : Nat} (ha : a < Config.ringCapacity) (v : Byte) : (m.write a v).wf := by
  refine ⟨?_, ?_⟩
  · have hcell : ∀ rest : Memory, (∀ d ∈ rest, a < d.1) → rest.Pairwise (fun c d => c.1 < d.1) →
        (Memory.cell a v ++ rest).Pairwise (fun c d => c.1 < d.1) := by
      intro rest h1 h2
      unfold Memory.cell
      split
      · simpa using h2
      · exact List.pairwise_cons.mpr ⟨h1, h2⟩
    induction m with
    | nil => simpa [Memory.write] using hcell [] (by simp) (by simp)
    | cons c rest ih =>
      obtain ⟨k, b⟩ := c
      obtain ⟨hs, hc⟩ := hm
      have hs' := List.pairwise_cons.mp hs
      unfold Memory.write
      split
      · rename_i hlt
        refine hcell _ (fun d hd => ?_) hs
        rcases List.mem_cons.mp hd with rfl | hd
        · exact hlt
        · exact hlt.trans (hs'.1 d hd)
      · split
        · rename_i _ heq
          subst heq
          exact hcell rest hs'.1 hs'.2
        · rename_i hlt hne
          refine List.pairwise_cons.mpr ⟨fun d hd => ?_, ih ⟨hs'.2, fun c h => hc c (by simp [h])⟩⟩
          rcases Memory.mem_write hd with hd | ⟨rfl, _⟩
          · exact hs'.1 d hd
          · show k < a
            omega
  · intro c hc
    rcases Memory.mem_write hc with h | ⟨rfl, hv⟩
    · exact hm.2 c h
    · exact ⟨ha, hv⟩

theorem Memory.mod_capacity_lt (n : Nat) : n % Config.ringCapacity < Config.ringCapacity := Nat.mod_lt _ (by decide)

/-- A run of writes keeps the canonical form. -/
theorem Memory.wf_writeRun {m : Memory} (hm : m.wf) (pos : Nat) (data : List Byte) : (m.writeRun pos data).wf := by
  induction data generalizing m pos with
  | nil => exact hm
  | cons b bs ih => exact ih (Memory.wf_write hm (Memory.mod_capacity_lt pos) b) (pos + 1)

/-- The memory at creation has the canonical form. -/
theorem Memory.wf_nil : Memory.wf [] := ⟨List.Pairwise.nil, by simp⟩

/-- A run of writes leaves every byte outside it as it was. -/
theorem Memory.read_writeRun_other {m : Memory} (hm : m.wf) (pos : Nat) (data : List Byte) (x : Nat)
    (hx : ∀ i < data.length, x ≠ (pos + i) % Config.ringCapacity) : (m.writeRun pos data).read x = m.read x := by
  induction data generalizing m pos with
  | nil => rfl
  | cons b bs ih =>
    have h0 := hx 0 (by simp)
    rw [Memory.writeRun, ih (Memory.wf_write hm (Memory.mod_capacity_lt pos) b), Memory.read_write m hm, if_neg (by simpa using h0)]
    intro i hi
    have := hx (i + 1) (by simpa using hi)
    rwa [show pos + (i + 1) = pos + 1 + i by omega] at this

theorem Memory.writeRun_congr (m : Memory) {p q : Nat} (h : p % Config.ringCapacity = q % Config.ringCapacity) (data : List Byte) :
    m.writeRun p data = m.writeRun q data := by
  induction data generalizing m p q with
  | nil => rfl
  | cons b bs ih =>
    rw [Memory.writeRun, Memory.writeRun, h]
    exact ih _ (by rw [Nat.add_mod, h, ← Nat.add_mod])

theorem Memory.readRun_congr (m : Memory) {p q : Nat} (h : p % Config.ringCapacity = q % Config.ringCapacity) (n : Nat) :
    m.readRun p n = m.readRun q n := by
  induction n generalizing p q with
  | zero => rfl
  | succ n ih =>
    rw [Memory.readRun, Memory.readRun, h]
    congr 1
    exact ih (by rw [Nat.add_mod, h, ← Nat.add_mod])

@[simp] theorem Memory.length_readRun (m : Memory) (p n : Nat) : (m.readRun p n).length = n := by
  induction n generalizing p with
  | zero => rfl
  | succ n ih => simp [Memory.readRun, ih]

theorem Memory.readRun_add (m : Memory) (p i j : Nat) : m.readRun p (i + j) = m.readRun p i ++ m.readRun (p + i) j := by
  induction i generalizing p with
  | zero => simp [Memory.readRun]
  | succ i ih =>
    rw [show i + 1 + j = (i + j) + 1 by omega, Memory.readRun, Memory.readRun, ih]
    simp [show p + 1 + i = p + (i + 1) by omega]

/-- A run of writes, read back, gives the bytes written. -/
theorem Memory.readRun_writeRun {m : Memory} (hm : m.wf) (pos : Nat) (data : List Byte) (hlen : data.length ≤ Config.ringCapacity) :
    (m.writeRun pos data).readRun pos data.length = data := by
  induction data generalizing m pos with
  | nil => rfl
  | cons b bs ih =>
    simp only [List.length_cons] at hlen
    have hw := Memory.wf_write hm (Memory.mod_capacity_lt pos) b
    rw [List.length_cons, Memory.readRun, Memory.writeRun, ih hw _ (by omega), Memory.read_writeRun_other hw, Memory.read_write m hm, if_pos rfl]
    intro i hi
    simp only [Config.ringCapacity] at hlen ⊢
    omega

/-- A run of writes after a run of unread bytes leaves the unread bytes as they were (41_ring_buffer.md R100 (f)). -/
theorem Memory.readRun_writeRun_before {m : Memory} (hm : m.wf) (start n : Nat) (data : List Byte)
    (hlen : n + data.length ≤ Config.ringCapacity) :
    (m.writeRun (start + n) data).readRun start n = m.readRun start n := by
  induction n generalizing start with
  | zero => rfl
  | succ n ih =>
    rw [Memory.readRun, Memory.readRun, Memory.read_writeRun_other hm]
    · congr 1
      have := ih (start + 1) (by omega)
      rwa [show start + 1 + n = start + (n + 1) by omega] at this
    · intro i hi
      simp only [Config.ringCapacity] at hlen ⊢
      omega

/-! ### The ring -/

/-- Occupancy under the ring's invariants: where the write cursor is, the bound, and when the ring is full
(10_state.md R26, R33, R41). -/
theorem Engine.occ_spec {e : Engine} (h : e.RingInv) :
    e.occ ≤ Config.ringCapacity ∧ e.wp = (e.rp + e.occ) % Config.ringCapacity ∧ (e.occ = Config.ringCapacity ↔ e.full = true) := by
  obtain ⟨hw, hr, hf, -⟩ := h
  unfold Engine.occ
  simp only [Config.ringCapacity] at *
  cases hfull : e.full with
  | true => have := hf hfull; exact ⟨Nat.le_refl _, by simp only [if_true]; omega, by simp⟩
  | false => simp only [Bool.false_eq_true, if_false, iff_false]; omega

@[simp] theorem Engine.length_contents (e : Engine) : e.contents.length = e.occ := by simp [Engine.contents]

@[simp] theorem Engine.length_popBytes (e : Engine) (n : Nat) : (e.popBytes n).length = min n e.occ := by simp [Engine.popBytes]

theorem Engine.accepts_le_free (e : Engine) (data : List Byte) : e.accepts data ≤ e.free := Nat.min_le_right _ _

theorem Engine.accepts_le_length (e : Engine) (data : List Byte) : e.accepts data ≤ data.length := Nat.min_le_left _ _

/-- Push keeps the ring's invariants, adds the accepted count to the occupancy and the accepted bytes to the contents
(41_ring_buffer.md R99, R105, R106). -/
theorem Engine.push_spec {e : Engine} (h : e.RingInv) (data : List Byte) :
    (e.push data).RingInv ∧ (e.push data).occ = e.occ + e.accepts data ∧
      (e.push data).contents = e.contents ++ data.take (e.accepts data) := by
  obtain ⟨hle, hwp, hfull⟩ := Engine.occ_spec h
  obtain ⟨hw, hr, hf, hm⟩ := h
  have ha : e.accepts data ≤ Config.ringCapacity - e.occ := Engine.accepts_le_free e data
  have hl : e.accepts data ≤ data.length := Engine.accepts_le_length e data
  have hinv : (e.push data).RingInv := by
    refine ⟨Memory.mod_capacity_lt _, hr, ?_, Memory.wf_writeRun hm _ _⟩
    simp only [Engine.push]
    split
    · rename_i hc; intro _; exact hc.2
    · rename_i hc
      intro hft
      have hocc := hfull.mpr hft
      have h0 : e.accepts data = 0 := by omega
      rw [h0, Nat.add_zero, Nat.mod_eq_of_lt hw]
      exact hf hft
  have hocc : (e.push data).occ = e.occ + e.accepts data := by
    have hocc' := Engine.occ_spec hinv
    have e1 : (e.push data).rp = e.rp := rfl
    have e2 : (e.push data).wp = (e.wp + e.accepts data) % Config.ringCapacity := rfl
    have e3 : (e.push data).full = if 0 < e.accepts data ∧ (e.wp + e.accepts data) % Config.ringCapacity = e.rp then true else e.full := rfl
    rw [e1, e2, e3] at hocc'
    obtain ⟨b1, b2, b3⟩ := hocc'
    rw [hwp] at b2 b3
    by_cases hc : 0 < e.accepts data ∧ ((e.rp + e.occ) % Config.ringCapacity + e.accepts data) % Config.ringCapacity = e.rp
    · rw [if_pos hc] at b3
      have := b3.mpr rfl
      simp only [Config.ringCapacity] at *
      omega
    · rw [if_neg hc, ← hfull] at b3
      simp only [Config.ringCapacity] at *
      omega
  refine ⟨hinv, hocc, ?_⟩
  have hrun : (e.push data).ring = e.ring.writeRun (e.rp + e.occ) (data.take (e.accepts data)) := by
    refine Memory.writeRun_congr _ ?_ _
    rw [hwp, Nat.mod_mod]
  have hlen : (data.take (e.accepts data)).length = e.accepts data := by simp [hl]
  unfold Engine.contents
  rw [hocc, hrun, show (e.push data).rp = e.rp from rfl, Memory.readRun_add]
  congr 1
  · exact Memory.readRun_writeRun_before hm _ _ _ (by omega)
  · have := Memory.readRun_writeRun hm (e.rp + e.occ) (data.take (e.accepts data)) (by omega)
    rwa [hlen] at this

/-- Pop returns the oldest bytes, removes them and keeps the ring's invariants (41_ring_buffer.md R101, R103, R105). -/
theorem Engine.pop_spec {e : Engine} (h : e.RingInv) (n : Nat) :
    (e.pop n).RingInv ∧ (e.pop n).occ = e.occ - n ∧ e.popBytes n = e.contents.take n ∧
      (e.pop n).contents = e.contents.drop n := by
  obtain ⟨hle, hwp, hfull⟩ := Engine.occ_spec h
  obtain ⟨hw, hr, hf, hm⟩ := h
  have hinv : (e.pop n).RingInv := by
    refine ⟨hw, Memory.mod_capacity_lt _, ?_, hm⟩
    simp only [Engine.pop]
    split
    · simp
    · rename_i hc
      intro hft
      rw [show min n e.occ = 0 by omega, Nat.add_zero, Nat.mod_eq_of_lt hr]
      exact hf hft
  have hocc : (e.pop n).occ = e.occ - n := by
    have hocc' := Engine.occ_spec hinv
    have e1 : (e.pop n).rp = (e.rp + min n e.occ) % Config.ringCapacity := rfl
    have e2 : (e.pop n).wp = e.wp := rfl
    have e3 : (e.pop n).full = if 0 < min n e.occ then false else e.full := rfl
    rw [e1, e2, e3] at hocc'
    obtain ⟨b1, b2, b3⟩ := hocc'
    rw [hwp] at b2
    by_cases hc : 0 < min n e.occ
    · rw [if_pos hc] at b3
      simp only [Bool.false_eq_true, iff_false] at b3
      simp only [Config.ringCapacity] at *
      omega
    · rw [if_neg hc, ← hfull] at b3
      simp only [Config.ringCapacity] at *
      omega
  have hbytes : e.popBytes n = e.contents.take n := by
    unfold Engine.popBytes Engine.contents
    rcases Nat.le_total n e.occ with hn | hn
    · obtain ⟨j, hj⟩ := Nat.exists_eq_add_of_le hn
      rw [Nat.min_eq_left hn, hj, Memory.readRun_add, List.take_left' (by simp)]
    · rw [Nat.min_eq_right hn, List.take_of_length_le (by simpa using hn)]
  refine ⟨hinv, hocc, hbytes, ?_⟩
  unfold Engine.contents
  rw [hocc]
  have hpos : ((e.rp + min n e.occ) % Config.ringCapacity) % Config.ringCapacity = (e.rp + min n e.occ) % Config.ringCapacity := Nat.mod_mod _ _
  have : (e.pop n).ring.readRun (e.pop n).rp (e.occ - n) = e.ring.readRun (e.rp + min n e.occ) (e.occ - n) :=
    Memory.readRun_congr _ hpos _
  rw [this]
  rcases Nat.le_total n e.occ with hn | hn
  · obtain ⟨j, hj⟩ := Nat.exists_eq_add_of_le hn
    rw [Nat.min_eq_left hn, hj, Nat.add_sub_cancel_left, Memory.readRun_add, List.drop_left' (by simp)]
  · rw [Nat.sub_eq_zero_of_le hn, List.drop_eq_nil_of_le (by simpa using hn)]
    rfl

/-- Flush empties the ring and keeps its invariants (41_ring_buffer.md R104). -/
theorem Engine.flush_spec {e : Engine} (hm : e.ring.wf) : e.flush.RingInv ∧ e.flush.occ = 0 ∧ e.flush.contents = [] := by
  refine ⟨⟨Nat.mod_lt 0 (by decide), Nat.mod_lt 0 (by decide), by simp [Engine.flush], hm⟩, by simp [Engine.occ, Engine.flush], ?_⟩
  rw [List.eq_nil_iff_length_eq_zero]
  simp [Engine.occ, Engine.flush]

/-! ### The clamp -/

/-- Of two rates the lower is kept while `v` lies below their middle (43_streaming.md R118). -/
theorem nearerRate_below (v b r : Word) (hbr : b < r) (h : 2 * v.toNat < b.toNat + r.toNat) : nearerRate v b r = b := by
  have hlt : b.toNat < r.toNat := hbr
  unfold nearerRate rateDistance
  rw [if_neg (by omega), if_neg (by omega)]

/-- From the middle on the higher is taken: "if two elements of RATES are equally near v, the larger" (43_streaming.md R118). -/
theorem nearerRate_above (v b r : Word) (hbr : b < r) (h : b.toNat + r.toNat ≤ 2 * v.toNat) : nearerRate v b r = r := by
  have hlt : b.toNat < r.toNat := hbr
  unfold nearerRate rateDistance
  split
  · rfl
  · rw [if_pos ⟨by omega, hbr⟩]

/-- The fold of the clamp written out (unfolding the clamp where the kernel would have to compare rates is slow: cite this). -/
theorem clampRate_eq (v : Word) :
    clampRate v = [8820, 11025, 14700, 17640, 22050, 29400, 44100].foldl (nearerRate v) 7350 := by
  have fold : ∀ f : Word → Word → Word, Config.rates.foldl f (Config.rates.headD Config.rateReset) =
      [8820, 11025, 14700, 17640, 22050, 29400, 44100].foldl f (f 7350 7350) := fun _ => rfl
  have first : nearerRate v 7350 7350 = 7350 := by unfold nearerRate; simp
  rw [clampRate, fold, first]

/-- The conditions of an operation as the rules write them (60_exceptions.md R148). -/
theorem conditionIf_decide (p : Prop) [Decidable p] (c : Condition) : conditionIf (decide p) c = if p then [c] else [] := by
  by_cases h : p <;> simp [conditionIf, h]

theorem Condition.code_ne_none (c : Condition) : c.code ≠ noConditionCode := by cases c <;> decide

/-- An operation is recorded under code 0 exactly where it met no condition (60_exceptions.md R148). -/
theorem Output.noConditionCode_mem_codes (o : Output) : noConditionCode ∈ o.codes ↔ o.conditions = [] := by
  unfold Output.codes
  cases o.conditions with
  | nil => simp [conditionCodes]
  | cons c cs => simpa [conditionCodes] using ⟨c.code_ne_none.symm, fun d _ => d.code_ne_none⟩

/-! ### Register fields and the codec window -/

@[simp] theorem two_pow_registerWidth : 2 ^ Config.registerWidth = 4294967296 := rfl

@[simp] theorem two_pow_thresholdWidth : 2 ^ Config.thresholdWidth = 32768 := rfl

@[simp] theorem two_pow_codecAddressWidth : 2 ^ Config.codecAddressWidth = 8 := rfl

theorem toNat_thresholdField (v : Word) : (thresholdField v).toNat = v.toNat % 2 ^ 15 := by simp [thresholdField]

theorem toNat_codecAddressField (v : Word) : (codecAddressField v).toNat = v.toNat % 8 := by simp [codecAddressField]

theorem toNat_zext32 {w : Nat} (v : BitVec w) (h : w ≤ Config.registerWidth) : (zext32 v).toNat = v.toNat := by
  rw [zext32, BitVec.toNat_setWidth, Nat.mod_eq_of_lt (Nat.lt_of_lt_of_le v.isLt (Nat.pow_le_pow_right (by decide) h))]

/-- Index 7 reads the rate (10_state.md R30). -/
theorem Engine.codecData_format {e : Engine} (h : e.caddr = 7) : e.codecData = e.rate := by
  unfold Engine.codecData
  rw [dif_neg (by rw [h]; decide)]

/-- Indices 0 to 6 read their own register (10_state.md R29). -/
theorem Engine.codecData_stored {e : Engine} (h : e.caddr.toNat < Config.storedCodecRegisters) :
    e.codecData = e.codec[e.caddr.toNat] := dif_pos h

/-- Index 7 stores the clamped rate (10_state.md R30). -/
theorem Engine.setCodecData_format {e : Engine} (h : e.caddr = 7) (v : Word) : e.setCodecData v = { e with rate := clampRate v } := by
  unfold Engine.setCodecData
  rw [dif_neg (by rw [h]; decide)]

/-- Indices 0 to 6 store whole into their own register (10_state.md R29). -/
theorem Engine.setCodecData_stored {e : Engine} (h : e.caddr.toNat < Config.storedCodecRegisters) (v : Word) :
    e.setCodecData v = { e with codec := e.codec.set e.caddr.toNat v } := dif_pos h

/-- Only index 7 has a supported set (60_exceptions.md R148). -/
theorem Engine.badRate_stored {e : Engine} (h : e.caddr.toNat < Config.storedCodecRegisters) (v : Word) : e.badRate v = false := by
  simp only [Engine.badRate, h, not_true_eq_false, decide_false, Bool.false_and]

/-! ### Guards, endings, fetching -/

theorem State.whenLive_live {s : State} (h : s.engine.life = .live) (r : Result) : s.whenLive r = r := if_pos h

theorem State.whenLive_refused {s : State} (h : s.engine.life ≠ .live) (r : Result) :
    s.whenLive r = s.refuse (.notAdmitted s.engine.life) := if_neg h

theorem State.whenAbsent_absent {s : State} (h : s.engine.life = .absent) (r : Result) : s.whenAbsent r = r := if_pos h

theorem State.whenAbsent_refused {s : State} (h : s.engine.life ≠ .absent) (r : Result) :
    s.whenAbsent r = s.refuse (.notAdmitted s.engine.life) := if_neg h

theorem State.whenBound_bound {s : State} {dir : Dir} (h : s.engine.binding dir ≠ none) (r : Result) : s.whenBound dir r = r := by
  unfold State.whenBound
  split
  · contradiction
  · rfl

theorem State.whenBound_unbound {s : State} {dir : Dir} (h : s.engine.binding dir = none) (r : Result) :
    s.whenBound dir r = s.raise (.unboundDirection dir) := by
  simp [State.whenBound, h]

@[simp] theorem State.fetch_cons (s : State) (t : Transaction) (rest : List Transaction) (h : s.pending = t :: rest) :
    s.fetch = some (t, { s with pending := rest }) := by simp [State.fetch, h]

@[simp] theorem State.fetch_nil (s : State) (h : s.pending = []) : s.fetch = none := by simp [State.fetch, h]

/-- How an operation can end: performed, or with BindingError, or refused (00_scope.md R14). -/
def Ends (s : State) (r : Result) : Prop :=
  (∃ e fx, r = s.complete e fx) ∨ (∃ why, r = s.raise why) ∨ ∃ why, r = s.refuse why

theorem ends_complete (s : State) (e : Engine) (fx : Effects) : Ends s (s.complete e fx) := .inl ⟨e, fx, rfl⟩

theorem ends_raise (s : State) (why : Fault) : Ends s (s.raise why) := .inr (.inl ⟨why, rfl⟩)

theorem ends_refuse (s : State) (why : Refusal) : Ends s (s.refuse why) := .inr (.inr ⟨why, rfl⟩)

theorem ends_whenLive {s : State} {r : Result} (h : Ends s r) : Ends s (s.whenLive r) := by
  unfold State.whenLive; split
  · exact h
  · exact ends_refuse _ _

theorem ends_whenAbsent {s : State} {r : Result} (h : Ends s r) : Ends s (s.whenAbsent r) := by
  unfold State.whenAbsent; split
  · exact h
  · exact ends_refuse _ _

theorem ends_whenBound {s : State} {r : Result} {dir : Dir} (h : Ends s r) : Ends s (s.whenBound dir r) := by
  unfold State.whenBound; split
  · exact ends_raise _ _
  · exact h

end Sys2Proof.Machine
end

