-- ==== Sys2Proof/Laws/State.lean ====
section
/-! SUPPORT. The fields of the state after each update, one lemma a field, and the fields of a state after each way an
operation ends. -/

namespace Sys2Proof.Machine

/-! ### flush (41_ring_buffer.md R104) -/

@[simp] theorem Engine.flush_life (e : Engine) : (e.flush).life = e.life := rfl
@[simp] theorem Engine.flush_ring (e : Engine) : (e.flush).ring = e.ring := rfl
@[simp] theorem Engine.flush_wp (e : Engine) : (e.flush).wp = 0 := rfl
@[simp] theorem Engine.flush_rp (e : Engine) : (e.flush).rp = 0 := rfl
@[simp] theorem Engine.flush_full (e : Engine) : (e.flush).full = false := rfl
@[simp] theorem Engine.flush_txen (e : Engine) : (e.flush).txen = e.txen := rfl
@[simp] theorem Engine.flush_rxen (e : Engine) : (e.flush).rxen = e.rxen := rfl
@[simp] theorem Engine.flush_ovr (e : Engine) : (e.flush).ovr = e.ovr := rfl
@[simp] theorem Engine.flush_unr (e : Engine) : (e.flush).unr = e.unr := rfl
@[simp] theorem Engine.flush_txthr (e : Engine) : (e.flush).txthr = e.txthr := rfl
@[simp] theorem Engine.flush_rxthr (e : Engine) : (e.flush).rxthr = e.rxthr := rfl
@[simp] theorem Engine.flush_caddr (e : Engine) : (e.flush).caddr = e.caddr := rfl
@[simp] theorem Engine.flush_codec (e : Engine) : (e.flush).codec = e.codec := rfl
@[simp] theorem Engine.flush_rate (e : Engine) : (e.flush).rate = e.rate := rfl
@[simp] theorem Engine.flush_bindTx (e : Engine) : (e.flush).bindTx = e.bindTx := rfl
@[simp] theorem Engine.flush_bindRx (e : Engine) : (e.flush).bindRx = e.bindRx := rfl
@[simp] theorem Engine.flush_dmaReg (e : Engine) : (e.flush).dmaReg = e.dmaReg := rfl
@[simp] theorem Engine.flush_voice (e : Engine) : (e.flush).voice = e.voice := rfl

/-! ### clearLatches (40_register_access.md R79) -/

@[simp] theorem Engine.clearLatches_life (e : Engine) : (e.clearLatches).life = e.life := rfl
@[simp] theorem Engine.clearLatches_ring (e : Engine) : (e.clearLatches).ring = e.ring := rfl
@[simp] theorem Engine.clearLatches_wp (e : Engine) : (e.clearLatches).wp = e.wp := rfl
@[simp] theorem Engine.clearLatches_rp (e : Engine) : (e.clearLatches).rp = e.rp := rfl
@[simp] theorem Engine.clearLatches_full (e : Engine) : (e.clearLatches).full = e.full := rfl
@[simp] theorem Engine.clearLatches_txen (e : Engine) : (e.clearLatches).txen = e.txen := rfl
@[simp] theorem Engine.clearLatches_rxen (e : Engine) : (e.clearLatches).rxen = e.rxen := rfl
@[simp] theorem Engine.clearLatches_ovr (e : Engine) : (e.clearLatches).ovr = false := rfl
@[simp] theorem Engine.clearLatches_unr (e : Engine) : (e.clearLatches).unr = false := rfl
@[simp] theorem Engine.clearLatches_txthr (e : Engine) : (e.clearLatches).txthr = e.txthr := rfl
@[simp] theorem Engine.clearLatches_rxthr (e : Engine) : (e.clearLatches).rxthr = e.rxthr := rfl
@[simp] theorem Engine.clearLatches_caddr (e : Engine) : (e.clearLatches).caddr = e.caddr := rfl
@[simp] theorem Engine.clearLatches_codec (e : Engine) : (e.clearLatches).codec = e.codec := rfl
@[simp] theorem Engine.clearLatches_rate (e : Engine) : (e.clearLatches).rate = e.rate := rfl
@[simp] theorem Engine.clearLatches_bindTx (e : Engine) : (e.clearLatches).bindTx = e.bindTx := rfl
@[simp] theorem Engine.clearLatches_bindRx (e : Engine) : (e.clearLatches).bindRx = e.bindRx := rfl
@[simp] theorem Engine.clearLatches_dmaReg (e : Engine) : (e.clearLatches).dmaReg = e.dmaReg := rfl
@[simp] theorem Engine.clearLatches_voice (e : Engine) : (e.clearLatches).voice = e.voice := rfl

/-! ### latchOverrun (10_state.md R35) -/

@[simp] theorem Engine.latchOverrun_life (e : Engine) (b : Bool) : (e.latchOverrun b).life = e.life := rfl
@[simp] theorem Engine.latchOverrun_ring (e : Engine) (b : Bool) : (e.latchOverrun b).ring = e.ring := rfl
@[simp] theorem Engine.latchOverrun_wp (e : Engine) (b : Bool) : (e.latchOverrun b).wp = e.wp := rfl
@[simp] theorem Engine.latchOverrun_rp (e : Engine) (b : Bool) : (e.latchOverrun b).rp = e.rp := rfl
@[simp] theorem Engine.latchOverrun_full (e : Engine) (b : Bool) : (e.latchOverrun b).full = e.full := rfl
@[simp] theorem Engine.latchOverrun_txen (e : Engine) (b : Bool) : (e.latchOverrun b).txen = e.txen := rfl
@[simp] theorem Engine.latchOverrun_rxen (e : Engine) (b : Bool) : (e.latchOverrun b).rxen = e.rxen := rfl
@[simp] theorem Engine.latchOverrun_ovr (e : Engine) (b : Bool) : (e.latchOverrun b).ovr = (e.ovr || b) := rfl
@[simp] theorem Engine.latchOverrun_unr (e : Engine) (b : Bool) : (e.latchOverrun b).unr = e.unr := rfl
@[simp] theorem Engine.latchOverrun_txthr (e : Engine) (b : Bool) : (e.latchOverrun b).txthr = e.txthr := rfl
@[simp] theorem Engine.latchOverrun_rxthr (e : Engine) (b : Bool) : (e.latchOverrun b).rxthr = e.rxthr := rfl
@[simp] theorem Engine.latchOverrun_caddr (e : Engine) (b : Bool) : (e.latchOverrun b).caddr = e.caddr := rfl
@[simp] theorem Engine.latchOverrun_codec (e : Engine) (b : Bool) : (e.latchOverrun b).codec = e.codec := rfl
@[simp] theorem Engine.latchOverrun_rate (e : Engine) (b : Bool) : (e.latchOverrun b).rate = e.rate := rfl
@[simp] theorem Engine.latchOverrun_bindTx (e : Engine) (b : Bool) : (e.latchOverrun b).bindTx = e.bindTx := rfl
@[simp] theorem Engine.latchOverrun_bindRx (e : Engine) (b : Bool) : (e.latchOverrun b).bindRx = e.bindRx := rfl
@[simp] theorem Engine.latchOverrun_dmaReg (e : Engine) (b : Bool) : (e.latchOverrun b).dmaReg = e.dmaReg := rfl
@[simp] theorem Engine.latchOverrun_voice (e : Engine) (b : Bool) : (e.latchOverrun b).voice = e.voice := rfl

/-! ### latchUnderrun (10_state.md R35) -/

@[simp] theorem Engine.latchUnderrun_life (e : Engine) (b : Bool) : (e.latchUnderrun b).life = e.life := rfl
@[simp] theorem Engine.latchUnderrun_ring (e : Engine) (b : Bool) : (e.latchUnderrun b).ring = e.ring := rfl
@[simp] theorem Engine.latchUnderrun_wp (e : Engine) (b : Bool) : (e.latchUnderrun b).wp = e.wp := rfl
@[simp] theorem Engine.latchUnderrun_rp (e : Engine) (b : Bool) : (e.latchUnderrun b).rp = e.rp := rfl
@[simp] theorem Engine.latchUnderrun_full (e : Engine) (b : Bool) : (e.latchUnderrun b).full = e.full := rfl
@[simp] theorem Engine.latchUnderrun_txen (e : Engine) (b : Bool) : (e.latchUnderrun b).txen = e.txen := rfl
@[simp] theorem Engine.latchUnderrun_rxen (e : Engine) (b : Bool) : (e.latchUnderrun b).rxen = e.rxen := rfl
@[simp] theorem Engine.latchUnderrun_ovr (e : Engine) (b : Bool) : (e.latchUnderrun b).ovr = e.ovr := rfl
@[simp] theorem Engine.latchUnderrun_unr (e : Engine) (b : Bool) : (e.latchUnderrun b).unr = (e.unr || b) := rfl
@[simp] theorem Engine.latchUnderrun_txthr (e : Engine) (b : Bool) : (e.latchUnderrun b).txthr = e.txthr := rfl
@[simp] theorem Engine.latchUnderrun_rxthr (e : Engine) (b : Bool) : (e.latchUnderrun b).rxthr = e.rxthr := rfl
@[simp] theorem Engine.latchUnderrun_caddr (e : Engine) (b : Bool) : (e.latchUnderrun b).caddr = e.caddr := rfl
@[simp] theorem Engine.latchUnderrun_codec (e : Engine) (b : Bool) : (e.latchUnderrun b).codec = e.codec := rfl
@[simp] theorem Engine.latchUnderrun_rate (e : Engine) (b : Bool) : (e.latchUnderrun b).rate = e.rate := rfl
@[simp] theorem Engine.latchUnderrun_bindTx (e : Engine) (b : Bool) : (e.latchUnderrun b).bindTx = e.bindTx := rfl
@[simp] theorem Engine.latchUnderrun_bindRx (e : Engine) (b : Bool) : (e.latchUnderrun b).bindRx = e.bindRx := rfl
@[simp] theorem Engine.latchUnderrun_dmaReg (e : Engine) (b : Bool) : (e.latchUnderrun b).dmaReg = e.dmaReg := rfl
@[simp] theorem Engine.latchUnderrun_voice (e : Engine) (b : Bool) : (e.latchUnderrun b).voice = e.voice := rfl

/-! ### push (41_ring_buffer.md R99) -/

@[simp] theorem Engine.push_life (e : Engine) (data : List Byte) : (e.push data).life = e.life := rfl
@[simp] theorem Engine.push_ring (e : Engine) (data : List Byte) : (e.push data).ring = e.ring.writeRun e.wp (data.take (e.accepts data)) := rfl
@[simp] theorem Engine.push_wp (e : Engine) (data : List Byte) : (e.push data).wp = (e.wp + e.accepts data) % Config.ringCapacity := rfl
@[simp] theorem Engine.push_rp (e : Engine) (data : List Byte) : (e.push data).rp = e.rp := rfl
@[simp] theorem Engine.push_txen (e : Engine) (data : List Byte) : (e.push data).txen = e.txen := rfl
@[simp] theorem Engine.push_rxen (e : Engine) (data : List Byte) : (e.push data).rxen = e.rxen := rfl
@[simp] theorem Engine.push_ovr (e : Engine) (data : List Byte) : (e.push data).ovr = e.ovr := rfl
@[simp] theorem Engine.push_unr (e : Engine) (data : List Byte) : (e.push data).unr = e.unr := rfl
@[simp] theorem Engine.push_txthr (e : Engine) (data : List Byte) : (e.push data).txthr = e.txthr := rfl
@[simp] theorem Engine.push_rxthr (e : Engine) (data : List Byte) : (e.push data).rxthr = e.rxthr := rfl
@[simp] theorem Engine.push_caddr (e : Engine) (data : List Byte) : (e.push data).caddr = e.caddr := rfl
@[simp] theorem Engine.push_codec (e : Engine) (data : List Byte) : (e.push data).codec = e.codec := rfl
@[simp] theorem Engine.push_rate (e : Engine) (data : List Byte) : (e.push data).rate = e.rate := rfl
@[simp] theorem Engine.push_bindTx (e : Engine) (data : List Byte) : (e.push data).bindTx = e.bindTx := rfl
@[simp] theorem Engine.push_bindRx (e : Engine) (data : List Byte) : (e.push data).bindRx = e.bindRx := rfl
@[simp] theorem Engine.push_dmaReg (e : Engine) (data : List Byte) : (e.push data).dmaReg = e.dmaReg := rfl
@[simp] theorem Engine.push_voice (e : Engine) (data : List Byte) : (e.push data).voice = e.voice := rfl

/-! ### pop (41_ring_buffer.md R101) -/

@[simp] theorem Engine.pop_life (e : Engine) (n : Nat) : (e.pop n).life = e.life := rfl
@[simp] theorem Engine.pop_ring (e : Engine) (n : Nat) : (e.pop n).ring = e.ring := rfl
@[simp] theorem Engine.pop_wp (e : Engine) (n : Nat) : (e.pop n).wp = e.wp := rfl
@[simp] theorem Engine.pop_rp (e : Engine) (n : Nat) : (e.pop n).rp = (e.rp + min n e.occ) % Config.ringCapacity := rfl
@[simp] theorem Engine.pop_txen (e : Engine) (n : Nat) : (e.pop n).txen = e.txen := rfl
@[simp] theorem Engine.pop_rxen (e : Engine) (n : Nat) : (e.pop n).rxen = e.rxen := rfl
@[simp] theorem Engine.pop_ovr (e : Engine) (n : Nat) : (e.pop n).ovr = e.ovr := rfl
@[simp] theorem Engine.pop_unr (e : Engine) (n : Nat) : (e.pop n).unr = e.unr := rfl
@[simp] theorem Engine.pop_txthr (e : Engine) (n : Nat) : (e.pop n).txthr = e.txthr := rfl
@[simp] theorem Engine.pop_rxthr (e : Engine) (n : Nat) : (e.pop n).rxthr = e.rxthr := rfl
@[simp] theorem Engine.pop_caddr (e : Engine) (n : Nat) : (e.pop n).caddr = e.caddr := rfl
@[simp] theorem Engine.pop_codec (e : Engine) (n : Nat) : (e.pop n).codec = e.codec := rfl
@[simp] theorem Engine.pop_rate (e : Engine) (n : Nat) : (e.pop n).rate = e.rate := rfl
@[simp] theorem Engine.pop_bindTx (e : Engine) (n : Nat) : (e.pop n).bindTx = e.bindTx := rfl
@[simp] theorem Engine.pop_bindRx (e : Engine) (n : Nat) : (e.pop n).bindRx = e.bindRx := rfl
@[simp] theorem Engine.pop_dmaReg (e : Engine) (n : Nat) : (e.pop n).dmaReg = e.dmaReg := rfl
@[simp] theorem Engine.pop_voice (e : Engine) (n : Nat) : (e.pop n).voice = e.voice := rfl

/-! ### register (44_binding_lifecycle.md R135) -/

@[simp] theorem Engine.register_life (e : Engine) (tx rx : ChanId) : (e.register tx rx).life = e.life := rfl
@[simp] theorem Engine.register_ring (e : Engine) (tx rx : ChanId) : (e.register tx rx).ring = e.ring := rfl
@[simp] theorem Engine.register_wp (e : Engine) (tx rx : ChanId) : (e.register tx rx).wp = e.wp := rfl
@[simp] theorem Engine.register_rp (e : Engine) (tx rx : ChanId) : (e.register tx rx).rp = e.rp := rfl
@[simp] theorem Engine.register_full (e : Engine) (tx rx : ChanId) : (e.register tx rx).full = e.full := rfl
@[simp] theorem Engine.register_txen (e : Engine) (tx rx : ChanId) : (e.register tx rx).txen = e.txen := rfl
@[simp] theorem Engine.register_rxen (e : Engine) (tx rx : ChanId) : (e.register tx rx).rxen = e.rxen := rfl
@[simp] theorem Engine.register_ovr (e : Engine) (tx rx : ChanId) : (e.register tx rx).ovr = e.ovr := rfl
@[simp] theorem Engine.register_unr (e : Engine) (tx rx : ChanId) : (e.register tx rx).unr = e.unr := rfl
@[simp] theorem Engine.register_txthr (e : Engine) (tx rx : ChanId) : (e.register tx rx).txthr = e.txthr := rfl
@[simp] theorem Engine.register_rxthr (e : Engine) (tx rx : ChanId) : (e.register tx rx).rxthr = e.rxthr := rfl
@[simp] theorem Engine.register_caddr (e : Engine) (tx rx : ChanId) : (e.register tx rx).caddr = e.caddr := rfl
@[simp] theorem Engine.register_codec (e : Engine) (tx rx : ChanId) : (e.register tx rx).codec = e.codec := rfl
@[simp] theorem Engine.register_rate (e : Engine) (tx rx : ChanId) : (e.register tx rx).rate = e.rate := rfl
@[simp] theorem Engine.register_bindTx (e : Engine) (tx rx : ChanId) : (e.register tx rx).bindTx = some tx := rfl
@[simp] theorem Engine.register_bindRx (e : Engine) (tx rx : ChanId) : (e.register tx rx).bindRx = some rx := rfl
@[simp] theorem Engine.register_dmaReg (e : Engine) (tx rx : ChanId) : (e.register tx rx).dmaReg = true := rfl
@[simp] theorem Engine.register_voice (e : Engine) (tx rx : ChanId) : (e.register tx rx).voice = e.voice := rfl

/-! ### bind (44_binding_lifecycle.md R137) -/

@[simp] theorem Engine.bind_life (e : Engine) (dir : Dir) (ch : ChanId) : (e.bind dir ch).life = e.life := by cases dir <;> rfl
@[simp] theorem Engine.bind_ring (e : Engine) (dir : Dir) (ch : ChanId) : (e.bind dir ch).ring = e.ring := by cases dir <;> rfl
@[simp] theorem Engine.bind_wp (e : Engine) (dir : Dir) (ch : ChanId) : (e.bind dir ch).wp = e.wp := by cases dir <;> rfl
@[simp] theorem Engine.bind_rp (e : Engine) (dir : Dir) (ch : ChanId) : (e.bind dir ch).rp = e.rp := by cases dir <;> rfl
@[simp] theorem Engine.bind_full (e : Engine) (dir : Dir) (ch : ChanId) : (e.bind dir ch).full = e.full := by cases dir <;> rfl
@[simp] theorem Engine.bind_txen (e : Engine) (dir : Dir) (ch : ChanId) : (e.bind dir ch).txen = e.txen := by cases dir <;> rfl
@[simp] theorem Engine.bind_rxen (e : Engine) (dir : Dir) (ch : ChanId) : (e.bind dir ch).rxen = e.rxen := by cases dir <;> rfl
@[simp] theorem Engine.bind_ovr (e : Engine) (dir : Dir) (ch : ChanId) : (e.bind dir ch).ovr = e.ovr := by cases dir <;> rfl
@[simp] theorem Engine.bind_unr (e : Engine) (dir : Dir) (ch : ChanId) : (e.bind dir ch).unr = e.unr := by cases dir <;> rfl
@[simp] theorem Engine.bind_txthr (e : Engine) (dir : Dir) (ch : ChanId) : (e.bind dir ch).txthr = e.txthr := by cases dir <;> rfl
@[simp] theorem Engine.bind_rxthr (e : Engine) (dir : Dir) (ch : ChanId) : (e.bind dir ch).rxthr = e.rxthr := by cases dir <;> rfl
@[simp] theorem Engine.bind_caddr (e : Engine) (dir : Dir) (ch : ChanId) : (e.bind dir ch).caddr = e.caddr := by cases dir <;> rfl
@[simp] theorem Engine.bind_codec (e : Engine) (dir : Dir) (ch : ChanId) : (e.bind dir ch).codec = e.codec := by cases dir <;> rfl
@[simp] theorem Engine.bind_rate (e : Engine) (dir : Dir) (ch : ChanId) : (e.bind dir ch).rate = e.rate := by cases dir <;> rfl
@[simp] theorem Engine.bind_dmaReg (e : Engine) (dir : Dir) (ch : ChanId) : (e.bind dir ch).dmaReg = e.dmaReg := by cases dir <;> rfl
@[simp] theorem Engine.bind_voice (e : Engine) (dir : Dir) (ch : ChanId) : (e.bind dir ch).voice = e.voice := by cases dir <;> rfl

/-! ### setCodecData (40_register_access.md R91) -/

@[simp] theorem Engine.setCodecData_life (e : Engine) (v : Word) : (e.setCodecData v).life = e.life := by unfold Engine.setCodecData; split <;> rfl
@[simp] theorem Engine.setCodecData_ring (e : Engine) (v : Word) : (e.setCodecData v).ring = e.ring := by unfold Engine.setCodecData; split <;> rfl
@[simp] theorem Engine.setCodecData_wp (e : Engine) (v : Word) : (e.setCodecData v).wp = e.wp := by unfold Engine.setCodecData; split <;> rfl
@[simp] theorem Engine.setCodecData_rp (e : Engine) (v : Word) : (e.setCodecData v).rp = e.rp := by unfold Engine.setCodecData; split <;> rfl
@[simp] theorem Engine.setCodecData_full (e : Engine) (v : Word) : (e.setCodecData v).full = e.full := by unfold Engine.setCodecData; split <;> rfl
@[simp] theorem Engine.setCodecData_txen (e : Engine) (v : Word) : (e.setCodecData v).txen = e.txen := by unfold Engine.setCodecData; split <;> rfl
@[simp] theorem Engine.setCodecData_rxen (e : Engine) (v : Word) : (e.setCodecData v).rxen = e.rxen := by unfold Engine.setCodecData; split <;> rfl
@[simp] theorem Engine.setCodecData_ovr (e : Engine) (v : Word) : (e.setCodecData v).ovr = e.ovr := by unfold Engine.setCodecData; split <;> rfl
@[simp] theorem Engine.setCodecData_unr (e : Engine) (v : Word) : (e.setCodecData v).unr = e.unr := by unfold Engine.setCodecData; split <;> rfl
@[simp] theorem Engine.setCodecData_txthr (e : Engine) (v : Word) : (e.setCodecData v).txthr = e.txthr := by unfold Engine.setCodecData; split <;> rfl
@[simp] theorem Engine.setCodecData_rxthr (e : Engine) (v : Word) : (e.setCodecData v).rxthr = e.rxthr := by unfold Engine.setCodecData; split <;> rfl
@[simp] theorem Engine.setCodecData_caddr (e : Engine) (v : Word) : (e.setCodecData v).caddr = e.caddr := by unfold Engine.setCodecData; split <;> rfl
@[simp] theorem Engine.setCodecData_bindTx (e : Engine) (v : Word) : (e.setCodecData v).bindTx = e.bindTx := by unfold Engine.setCodecData; split <;> rfl
@[simp] theorem Engine.setCodecData_bindRx (e : Engine) (v : Word) : (e.setCodecData v).bindRx = e.bindRx := by unfold Engine.setCodecData; split <;> rfl
@[simp] theorem Engine.setCodecData_dmaReg (e : Engine) (v : Word) : (e.setCodecData v).dmaReg = e.dmaReg := by unfold Engine.setCodecData; split <;> rfl
@[simp] theorem Engine.setCodecData_voice (e : Engine) (v : Word) : (e.setCodecData v).voice = e.voice := by unfold Engine.setCodecData; split <;> rfl

/-! ### writeCs0 (40_register_access.md R86) -/

@[simp] theorem Engine.writeCs0_life (e : Engine) (v : Word) : (e.writeCs0 v).life = e.life := by unfold Engine.writeCs0; simp only; split <;> rfl
@[simp] theorem Engine.writeCs0_ring (e : Engine) (v : Word) : (e.writeCs0 v).ring = e.ring := by unfold Engine.writeCs0; simp only; split <;> rfl
@[simp] theorem Engine.writeCs0_txen (e : Engine) (v : Word) : (e.writeCs0 v).txen = txenField v := by unfold Engine.writeCs0; simp only; split <;> rfl
@[simp] theorem Engine.writeCs0_rxen (e : Engine) (v : Word) : (e.writeCs0 v).rxen = rxenField v := by unfold Engine.writeCs0; simp only; split <;> rfl
@[simp] theorem Engine.writeCs0_ovr (e : Engine) (v : Word) : (e.writeCs0 v).ovr = e.ovr := by unfold Engine.writeCs0; simp only; split <;> rfl
@[simp] theorem Engine.writeCs0_unr (e : Engine) (v : Word) : (e.writeCs0 v).unr = e.unr := by unfold Engine.writeCs0; simp only; split <;> rfl
@[simp] theorem Engine.writeCs0_txthr (e : Engine) (v : Word) : (e.writeCs0 v).txthr = e.txthr := by unfold Engine.writeCs0; simp only; split <;> rfl
@[simp] theorem Engine.writeCs0_rxthr (e : Engine) (v : Word) : (e.writeCs0 v).rxthr = e.rxthr := by unfold Engine.writeCs0; simp only; split <;> rfl
@[simp] theorem Engine.writeCs0_caddr (e : Engine) (v : Word) : (e.writeCs0 v).caddr = e.caddr := by unfold Engine.writeCs0; simp only; split <;> rfl
@[simp] theorem Engine.writeCs0_codec (e : Engine) (v : Word) : (e.writeCs0 v).codec = e.codec := by unfold Engine.writeCs0; simp only; split <;> rfl
@[simp] theorem Engine.writeCs0_rate (e : Engine) (v : Word) : (e.writeCs0 v).rate = e.rate := by unfold Engine.writeCs0; simp only; split <;> rfl
@[simp] theorem Engine.writeCs0_bindTx (e : Engine) (v : Word) : (e.writeCs0 v).bindTx = e.bindTx := by unfold Engine.writeCs0; simp only; split <;> rfl
@[simp] theorem Engine.writeCs0_bindRx (e : Engine) (v : Word) : (e.writeCs0 v).bindRx = e.bindRx := by unfold Engine.writeCs0; simp only; split <;> rfl
@[simp] theorem Engine.writeCs0_dmaReg (e : Engine) (v : Word) : (e.writeCs0 v).dmaReg = e.dmaReg := by unfold Engine.writeCs0; simp only; split <;> rfl
@[simp] theorem Engine.writeCs0_voice (e : Engine) (v : Word) : (e.writeCs0 v).voice = e.voice := by unfold Engine.writeCs0; simp only; split <;> rfl

/-! ### playback (43_streaming.md R122) -/

@[simp] theorem Engine.playback_life (e : Engine) : (e.playback).life = e.life := rfl
@[simp] theorem Engine.playback_ring (e : Engine) : (e.playback).ring = e.ring := rfl
@[simp] theorem Engine.playback_wp (e : Engine) : (e.playback).wp = e.wp := rfl
@[simp] theorem Engine.playback_rp (e : Engine) : (e.playback).rp = (e.rp + min Config.frameBytes e.occ) % Config.ringCapacity := rfl
@[simp] theorem Engine.playback_txen (e : Engine) : (e.playback).txen = e.txen := rfl
@[simp] theorem Engine.playback_rxen (e : Engine) : (e.playback).rxen = e.rxen := rfl
@[simp] theorem Engine.playback_ovr (e : Engine) : (e.playback).ovr = e.ovr := rfl
@[simp] theorem Engine.playback_txthr (e : Engine) : (e.playback).txthr = e.txthr := rfl
@[simp] theorem Engine.playback_rxthr (e : Engine) : (e.playback).rxthr = e.rxthr := rfl
@[simp] theorem Engine.playback_caddr (e : Engine) : (e.playback).caddr = e.caddr := rfl
@[simp] theorem Engine.playback_codec (e : Engine) : (e.playback).codec = e.codec := rfl
@[simp] theorem Engine.playback_rate (e : Engine) : (e.playback).rate = e.rate := rfl
@[simp] theorem Engine.playback_bindTx (e : Engine) : (e.playback).bindTx = e.bindTx := rfl
@[simp] theorem Engine.playback_bindRx (e : Engine) : (e.playback).bindRx = e.bindRx := rfl
@[simp] theorem Engine.playback_dmaReg (e : Engine) : (e.playback).dmaReg = e.dmaReg := rfl
@[simp] theorem Engine.playback_voice (e : Engine) : (e.playback).voice = e.voice := rfl

/-! ### capture (43_streaming.md R124) -/

@[simp] theorem Engine.capture_life (e : Engine) (host : List Byte) : (e.capture host).life = e.life := rfl
@[simp] theorem Engine.capture_rp (e : Engine) (host : List Byte) : (e.capture host).rp = e.rp := rfl
@[simp] theorem Engine.capture_txen (e : Engine) (host : List Byte) : (e.capture host).txen = e.txen := rfl
@[simp] theorem Engine.capture_rxen (e : Engine) (host : List Byte) : (e.capture host).rxen = e.rxen := rfl
@[simp] theorem Engine.capture_unr (e : Engine) (host : List Byte) : (e.capture host).unr = e.unr := rfl
@[simp] theorem Engine.capture_txthr (e : Engine) (host : List Byte) : (e.capture host).txthr = e.txthr := rfl
@[simp] theorem Engine.capture_rxthr (e : Engine) (host : List Byte) : (e.capture host).rxthr = e.rxthr := rfl
@[simp] theorem Engine.capture_caddr (e : Engine) (host : List Byte) : (e.capture host).caddr = e.caddr := rfl
@[simp] theorem Engine.capture_codec (e : Engine) (host : List Byte) : (e.capture host).codec = e.codec := rfl
@[simp] theorem Engine.capture_rate (e : Engine) (host : List Byte) : (e.capture host).rate = e.rate := rfl
@[simp] theorem Engine.capture_bindTx (e : Engine) (host : List Byte) : (e.capture host).bindTx = e.bindTx := rfl
@[simp] theorem Engine.capture_bindRx (e : Engine) (host : List Byte) : (e.capture host).bindRx = e.bindRx := rfl
@[simp] theorem Engine.capture_dmaReg (e : Engine) (host : List Byte) : (e.capture host).dmaReg = e.dmaReg := rfl
@[simp] theorem Engine.capture_voice (e : Engine) (host : List Byte) : (e.capture host).voice = e.voice := rfl

/-! ### afterReset (44_binding_lifecycle.md R143) -/

@[simp] theorem Engine.afterReset_life (e : Engine) : (e.afterReset).life = e.life := rfl
@[simp] theorem Engine.afterReset_ring (e : Engine) : (e.afterReset).ring = e.ring := rfl
@[simp] theorem Engine.afterReset_wp (e : Engine) : (e.afterReset).wp = 0 := rfl
@[simp] theorem Engine.afterReset_rp (e : Engine) : (e.afterReset).rp = 0 := rfl
@[simp] theorem Engine.afterReset_full (e : Engine) : (e.afterReset).full = false := rfl
@[simp] theorem Engine.afterReset_txen (e : Engine) : (e.afterReset).txen = false := rfl
@[simp] theorem Engine.afterReset_rxen (e : Engine) : (e.afterReset).rxen = false := rfl
@[simp] theorem Engine.afterReset_ovr (e : Engine) : (e.afterReset).ovr = false := rfl
@[simp] theorem Engine.afterReset_unr (e : Engine) : (e.afterReset).unr = false := rfl
@[simp] theorem Engine.afterReset_txthr (e : Engine) : (e.afterReset).txthr = 0 := rfl
@[simp] theorem Engine.afterReset_rxthr (e : Engine) : (e.afterReset).rxthr = 0 := rfl
@[simp] theorem Engine.afterReset_caddr (e : Engine) : (e.afterReset).caddr = 0 := rfl
@[simp] theorem Engine.afterReset_codec (e : Engine) : (e.afterReset).codec = Vector.replicate Config.storedCodecRegisters 0 := rfl
@[simp] theorem Engine.afterReset_rate (e : Engine) : (e.afterReset).rate = Config.rateReset := rfl
@[simp] theorem Engine.afterReset_bindTx (e : Engine) : (e.afterReset).bindTx = e.bindTx := rfl
@[simp] theorem Engine.afterReset_bindRx (e : Engine) : (e.afterReset).bindRx = e.bindRx := rfl
@[simp] theorem Engine.afterReset_dmaReg (e : Engine) : (e.afterReset).dmaReg = e.dmaReg := rfl
@[simp] theorem Engine.afterReset_voice (e : Engine) : (e.afterReset).voice = e.voice := rfl

/-! ### tornDown (44_binding_lifecycle.md R145) -/

@[simp] theorem Engine.tornDown_life (e : Engine) : (e.tornDown).life = .gone := rfl
@[simp] theorem Engine.tornDown_ring (e : Engine) : (e.tornDown).ring = e.ring := rfl
@[simp] theorem Engine.tornDown_wp (e : Engine) : (e.tornDown).wp = e.wp := rfl
@[simp] theorem Engine.tornDown_rp (e : Engine) : (e.tornDown).rp = e.rp := rfl
@[simp] theorem Engine.tornDown_full (e : Engine) : (e.tornDown).full = e.full := rfl
@[simp] theorem Engine.tornDown_txen (e : Engine) : (e.tornDown).txen = e.txen := rfl
@[simp] theorem Engine.tornDown_rxen (e : Engine) : (e.tornDown).rxen = e.rxen := rfl
@[simp] theorem Engine.tornDown_ovr (e : Engine) : (e.tornDown).ovr = e.ovr := rfl
@[simp] theorem Engine.tornDown_unr (e : Engine) : (e.tornDown).unr = e.unr := rfl
@[simp] theorem Engine.tornDown_txthr (e : Engine) : (e.tornDown).txthr = e.txthr := rfl
@[simp] theorem Engine.tornDown_rxthr (e : Engine) : (e.tornDown).rxthr = e.rxthr := rfl
@[simp] theorem Engine.tornDown_caddr (e : Engine) : (e.tornDown).caddr = e.caddr := rfl
@[simp] theorem Engine.tornDown_codec (e : Engine) : (e.tornDown).codec = e.codec := rfl
@[simp] theorem Engine.tornDown_rate (e : Engine) : (e.tornDown).rate = e.rate := rfl
@[simp] theorem Engine.tornDown_bindTx (e : Engine) : (e.tornDown).bindTx = none := rfl
@[simp] theorem Engine.tornDown_bindRx (e : Engine) : (e.tornDown).bindRx = none := rfl
@[simp] theorem Engine.tornDown_dmaReg (e : Engine) : (e.tornDown).dmaReg = e.dmaReg := rfl
@[simp] theorem Engine.tornDown_voice (e : Engine) : (e.tornDown).voice = .closed := rfl

/-! ### The state after creation (10_state.md R44) -/

@[simp] theorem State.reset_engine : State.reset.engine = Engine.created := rfl
@[simp] theorem State.reset_refusalMark : State.reset.refusalMark = false := rfl
@[simp] theorem State.reset_pending : State.reset.pending = [] := rfl
@[simp] theorem State.reset_trace : State.reset.trace = [] := rfl
@[simp] theorem State.absent_life : State.absent.engine.life = .absent := rfl

/-! ### Presenting an operation -/

@[simp] theorem State.presentFirst_pending (s : State) (t : Transaction) : (s.presentFirst t).pending = t :: s.pending := rfl
@[simp] theorem State.presentFirst_engine (s : State) (t : Transaction) : (s.presentFirst t).engine = s.engine := rfl
@[simp] theorem State.presentFirst_refusalMark (s : State) (t : Transaction) : (s.presentFirst t).refusalMark = s.refusalMark := rfl
@[simp] theorem State.presentFirst_trace (s : State) (t : Transaction) : (s.presentFirst t).trace = s.trace := rfl

end Sys2Proof.Machine
end

