-- ==== Sys2Proof/Laws/Streaming.lean ====
section
/-! SUPPORT. Frames as byte strings, the bytes a push stores, and what the two halves of a tick do to the ring and the latches. -/

namespace Sys2Proof.Machine

/-! ### Frames and stored bytes -/

theorem frameBytes_eq_toList (f : Frame) : frameBytes f = f.toList := by
  apply List.ext_getElem
  · simp [frameBytes]
  · intro i h1 h2
    simp [frameBytes]

@[simp] theorem length_frameBytes (f : Frame) : (frameBytes f).length = Config.frameBytes := by simp [frameBytes]

@[simp] theorem frameOf_toList (g : Frame) : frameOf g.toList = g := by
  apply Vector.ext
  intro i hi
  simp [frameOf]

theorem toList_frameOf {l : List Byte} (h : l.length = Config.frameBytes) : (frameOf l).toList = l := by
  apply List.ext_getElem
  · simp [h]
  · intro i h1 h2
    simp [frameOf, h2]

/-- The byte a run of reads gives at each place (41_ring_buffer.md R101). -/
theorem Memory.getElem?_readRun (m : Memory) (p n i : Nat) (hi : i < n) :
    (m.readRun p n)[i]? = some (m.read ((p + i) % Config.ringCapacity)) := by
  induction n generalizing p i with
  | zero => omega
  | succ n ih =>
    cases i with
    | zero => simp [Memory.readRun]
    | succ i =>
      simp only [Memory.readRun, List.getElem?_cons_succ]
      rw [ih _ i (by omega), show p + 1 + i = p + (i + 1) by omega]

/-- A run of writes stores its bytes where the rule says and leaves the others alone (41_ring_buffer.md R99). -/
theorem Memory.storesAt_writeRun {m : Memory} (hm : m.wf) (wp : Nat) (data : List Byte) (a : Nat) (ha : a ≤ data.length)
    (hc : a ≤ Config.ringCapacity) : StoresAt m (m.writeRun wp (data.take a)) wp data a := by
  have hl : (data.take a).length = a := by simp [ha]
  constructor
  · intro i hi b hb
    have h1 := Memory.readRun_writeRun hm wp (data.take a) (by omega)
    have h2 := Memory.getElem?_readRun (m.writeRun wp (data.take a)) wp (data.take a).length i (by omega)
    rw [h1, List.getElem?_take_of_lt hi, hb] at h2
    simpa using h2.symm
  · intro x hx
    exact Memory.read_writeRun_other hm _ _ _ (by rw [hl]; exact hx)

/-! ### The halves of a tick -/

theorem Engine.playbackPart_on {e : Engine} (h : e.txen = true) : e.playbackPart = (e.playback, e.playbackEffects) := if_pos h

theorem Engine.playbackPart_off {e : Engine} (h : e.txen = false) : e.playbackPart = (e, {}) := if_neg (by simp [h])

theorem Engine.capturePart_on {e : Engine} (h : e.rxen = true) (host : List Byte) :
    e.capturePart host = (e.capture host, e.captureEffects host) := if_pos h

theorem Engine.capturePart_off {e : Engine} (h : e.rxen = false) (host : List Byte) : e.capturePart host = (e, {}) :=
  if_neg (by simp [h])

@[simp] theorem Engine.length_captureBytes (e : Engine) (host : List Byte) : (e.captureBytes host).length = Config.frameBytes :=
  length_frameBytes _

theorem Engine.accepts_captureBytes (e : Engine) (host : List Byte) :
    e.accepts (e.captureBytes host) = min Config.frameBytes e.free := by
  rw [Engine.accepts, Engine.length_captureBytes]

/-- The playback half keeps the ring's invariants, removes the oldest frame's worth of bytes, and latches an underrun exactly where the
ring held less (43_streaming.md R122, R123). -/
theorem Engine.playback_spec {e : Engine} (h : e.RingInv) :
    e.playback.RingInv ∧ e.playback.occ = e.occ - Config.frameBytes ∧ e.playback.contents = e.contents.drop Config.frameBytes ∧
      e.playback.unr = (e.unr || decide (e.occ < Config.frameBytes)) := by
  have hp := Engine.pop_spec h Config.frameBytes
  exact ⟨hp.1, hp.2.1, hp.2.2.2, by simp [Engine.playback]⟩

/-- The capture half keeps the ring's invariants, appends what fits of the frame, and latches an overrun exactly where it does not
fit (43_streaming.md R124). -/
theorem Engine.capture_spec {e : Engine} (h : e.RingInv) (host : List Byte) :
    (e.capture host).RingInv ∧ (e.capture host).occ = e.occ + min Config.frameBytes e.free ∧
      (e.capture host).contents = e.contents ++ (e.captureBytes host).take e.free ∧
      (e.capture host).ovr = (e.ovr || decide (e.free < Config.frameBytes)) := by
  have hp := Engine.push_spec h (e.captureBytes host)
  refine ⟨hp.1, hp.2.1.trans (by rw [Engine.accepts_captureBytes]), hp.2.2.trans ?_, ?_⟩
  · congr 1
    rw [Engine.accepts_captureBytes, List.take_eq_take_iff, Engine.length_captureBytes]
    omega
  · simp [Engine.capture, Engine.latchOverrun, Engine.accepts_captureBytes]

/-- A tick keeps the ring's invariants (10_state.md R41). -/
theorem Engine.tick_ringInv {e : Engine} (h : e.RingInv) (host : List Byte) : (e.playbackPart.1.capturePart host).1.RingInv := by
  have first : e.playbackPart.1.RingInv := by
    unfold Engine.playbackPart
    split
    · exact (Engine.playback_spec h).1
    · exact h
  revert first
  generalize e.playbackPart.1 = m
  intro first
  unfold Engine.capturePart
  split
  · exact (Engine.capture_spec first host).1
  · exact first

/-- What a tick leaves as it was. -/
theorem Engine.tick_frame (e : Engine) (host : List Byte) :
    ∃ ring wp rp full ovr unr, (e.playbackPart.1.capturePart host).1 =
      { e with ring := ring, wp := wp, rp := rp, full := full, ovr := e.ovr || ovr, unr := e.unr || unr } := by
  obtain ht | ht := Bool.eq_false_or_eq_true e.txen <;> obtain hr | hr := Bool.eq_false_or_eq_true e.rxen
  · rw [Engine.playbackPart_on ht, Engine.capturePart_on (show e.playback.rxen = true from hr)]
    exact ⟨_, _, _, _, _, _, rfl⟩
  · rw [Engine.playbackPart_on ht, Engine.capturePart_off (show e.playback.rxen = false from hr)]
    exact ⟨_, _, _, _, false, _, by simp only [Bool.or_false]; rfl⟩
  · rw [Engine.playbackPart_off ht, Engine.capturePart_on hr]
    exact ⟨_, _, _, _, _, false, by simp only [Bool.or_false]; rfl⟩
  · rw [Engine.playbackPart_off ht, Engine.capturePart_off hr]
    exact ⟨e.ring, e.wp, e.rp, e.full, false, false, by simp⟩

/-- A tick returns nothing (43_streaming.md R121). -/
@[simp] theorem Engine.tick_reply (e m : Engine) (host : List Byte) :
    (e.playbackPart.2.union (m.capturePart host).2).reply = .nothing := by
  unfold Engine.capturePart
  split <;> rfl

end Sys2Proof.Machine
end

