-- ==== Sys2Proof/Laws/Exec.lean ====
section
/-! SUPPORT. What exec answers once an operation's guards hold, in the terms of the shared operations, one lemma per operation;
what it answers where the life state does not admit the operation; and how every operation ends. -/

namespace Sys2Proof.Machine

variable {s : State}

theorem exec_rdCs0 (h : s.engine.life = .live) :
    exec .rdCs0 s = s.complete s.engine.clearLatches { reply := .word s.engine.cs0 } := State.whenLive_live h _

theorem exec_rdCs1 (h : s.engine.life = .live) :
    exec .rdCs1 s = s.complete s.engine { reply := .word (zext32 s.engine.txthr) } := State.whenLive_live h _

theorem exec_rdCs2 (h : s.engine.life = .live) :
    exec .rdCs2 s = s.complete s.engine { reply := .word (zext32 s.engine.rxthr) } := State.whenLive_live h _

theorem exec_rdCs3 (h : s.engine.life = .live) :
    exec .rdCs3 s = s.complete s.engine { reply := .word s.engine.cs3 } := State.whenLive_live h _

theorem exec_rdCaddr (h : s.engine.life = .live) :
    exec .rdCaddr s = s.complete s.engine { reply := .word (zext32 s.engine.caddr) } := State.whenLive_live h _

theorem exec_rdCdata (h : s.engine.life = .live) :
    exec .rdCdata s = s.complete s.engine { reply := .word s.engine.codecData } := State.whenLive_live h _

theorem exec_wrCs0 (h : s.engine.life = .live) (v : Word) :
    exec (.wrCs0 v) s = s.complete (s.engine.writeCs0 v) {} := State.whenLive_live h _

theorem exec_wrCs1 (h : s.engine.life = .live) (v : Word) :
    exec (.wrCs1 v) s = s.complete { s.engine with txthr := thresholdField v } {} := State.whenLive_live h _

theorem exec_wrCs2 (h : s.engine.life = .live) (v : Word) :
    exec (.wrCs2 v) s = s.complete { s.engine with rxthr := thresholdField v } {} := State.whenLive_live h _

theorem exec_wrCs3 (h : s.engine.life = .live) (v : Word) : exec (.wrCs3 v) s = s.complete s.engine {} :=
  State.whenLive_live h _

theorem exec_wrCaddr (h : s.engine.life = .live) (v : Word) :
    exec (.wrCaddr v) s = s.complete { s.engine with caddr := codecAddressField v } {} := State.whenLive_live h _

theorem exec_wrCdata (h : s.engine.life = .live) (v : Word) :
    exec (.wrCdata v) s =
      s.complete (s.engine.setCodecData v) { conditions := conditionIf (s.engine.badRate v) .configurationError } :=
  State.whenLive_live h _

theorem exec_dmaTx_enabled (h : s.engine.life = .live) (hb : s.engine.bindTx ≠ none) (he : s.engine.txen = true) (data : List Byte) :
    exec (.dmaTx data) s = s.transmit data := by
  show execDmaTx data s = _
  rw [execDmaTx, State.whenLive_live h, State.whenBound_bound (show s.engine.binding .tx ≠ none from hb), if_pos he]

theorem exec_dmaTx_disabled (h : s.engine.life = .live) (hb : s.engine.bindTx ≠ none) (he : s.engine.txen = false) (data : List Byte) :
    exec (.dmaTx data) s = s.complete s.engine { reply := .accepted 0 } := by
  show execDmaTx data s = _
  rw [execDmaTx, State.whenLive_live h, State.whenBound_bound (show s.engine.binding .tx ≠ none from hb), if_neg (by simp [he])]

theorem exec_dmaTx_unbound (h : s.engine.life = .live) (hb : s.engine.bindTx = none) (data : List Byte) :
    exec (.dmaTx data) s = s.raise (.unboundDirection .tx) := by
  show execDmaTx data s = _
  rw [execDmaTx, State.whenLive_live h, State.whenBound_unbound (show s.engine.binding .tx = none from hb)]

theorem exec_dmaRx_enabled (h : s.engine.life = .live) (hb : s.engine.bindRx ≠ none) (he : s.engine.rxen = true) (n : Nat) :
    exec (.dmaRx n) s = s.receive n := by
  show execDmaRx n s = _
  rw [execDmaRx, State.whenLive_live h, State.whenBound_bound (show s.engine.binding .rx ≠ none from hb), if_pos he]

theorem exec_dmaRx_disabled (h : s.engine.life = .live) (hb : s.engine.bindRx ≠ none) (he : s.engine.rxen = false) (n : Nat) :
    exec (.dmaRx n) s = s.complete s.engine { reply := .received (zeros n) } := by
  show execDmaRx n s = _
  rw [execDmaRx, State.whenLive_live h, State.whenBound_bound (show s.engine.binding .rx ≠ none from hb), if_neg (by simp [he])]

theorem exec_dmaRx_unbound (h : s.engine.life = .live) (hb : s.engine.bindRx = none) (n : Nat) :
    exec (.dmaRx n) s = s.raise (.unboundDirection .rx) := by
  show execDmaRx n s = _
  rw [execDmaRx, State.whenLive_live h, State.whenBound_unbound (show s.engine.binding .rx = none from hb)]

theorem exec_tick (h : s.engine.life = .live) (host : List Byte) :
    exec (.tick host) s =
      s.complete (s.engine.playbackPart.1.capturePart host).1
        (s.engine.playbackPart.2.union (s.engine.playbackPart.1.capturePart host).2) := State.whenLive_live h _

/-- A tick with transmit alone enabled. -/
theorem exec_tick_playback (h : s.engine.life = .live) (ht : s.engine.txen = true) (hr : s.engine.rxen = false) (host : List Byte) :
    exec (.tick host) s = s.complete s.engine.playback (s.engine.playbackEffects.union {}) := by
  rw [exec_tick h, Engine.playbackPart_on ht, Engine.capturePart_off (show s.engine.playback.rxen = false from hr)]

/-- A tick with receive alone enabled. -/
theorem exec_tick_capture (h : s.engine.life = .live) (ht : s.engine.txen = false) (hr : s.engine.rxen = true) (host : List Byte) :
    exec (.tick host) s = s.complete (s.engine.capture host) (({} : Effects).union (s.engine.captureEffects host)) := by
  rw [exec_tick h, Engine.playbackPart_off ht, Engine.capturePart_on hr]

/-- A tick with both directions enabled. -/
theorem exec_tick_both (h : s.engine.life = .live) (ht : s.engine.txen = true) (hr : s.engine.rxen = true) (host : List Byte) :
    exec (.tick host) s =
      s.complete (s.engine.playback.capture host) (s.engine.playbackEffects.union (s.engine.playback.captureEffects host)) := by
  rw [exec_tick h, Engine.playbackPart_on ht, Engine.capturePart_on (show s.engine.playback.rxen = true from hr)]

theorem exec_bindDma_bound (h : s.engine.life = .live) (hr : s.engine.dmaReg = false) (ha : s.engine.active = false) (mgr tx rx : ChanId) :
    exec (.bindDma (some mgr) (some tx) (some rx)) s = s.complete (s.engine.register tx rx) {} := by
  show execBindDma (some mgr) (some tx) (some rx) s = _
  rw [execBindDma, State.whenLive_live h]
  simp only [hr, ha, Bool.false_eq_true, if_false]

theorem exec_bindCh_bound (h : s.engine.life = .live) (ha : s.engine.active = false) (dir : Dir) (ch : ChanId) :
    exec (.bindCh dir (some ch)) s = s.complete (s.engine.bind dir ch) {} := by
  show execBindCh dir (some ch) s = _
  rw [execBindCh, State.whenLive_live h]
  simp only [ha, Bool.false_eq_true, if_false]

theorem exec_create (h : s.engine.life = .absent) :
    exec .create s = s.complete Engine.created { voice := some (.openVoice .s16 voiceChannels) } := State.whenAbsent_absent h _

theorem exec_reset (h : s.engine.life = .live) : exec .reset s = s.complete s.engine.afterReset {} := State.whenLive_live h _

theorem exec_teardown (h : s.engine.life = .live) :
    exec .teardown s = s.complete s.engine.tornDown { voice := some .closeVoice } := State.whenLive_live h _

theorem exec_ringPush (h : s.engine.life = .live) (data : List Byte) :
    exec (.ringPush data) s = s.complete (s.engine.push data) { reply := .pushed (s.engine.accepts data) } := State.whenLive_live h _

theorem exec_ringPop (h : s.engine.life = .live) (n : Nat) :
    exec (.ringPop n) s = s.complete (s.engine.pop n) { reply := .popped (s.engine.popBytes n) } := State.whenLive_live h _

/-- An operation other than CREATE outside Live is refused (44_binding_lifecycle.md R133). -/
theorem exec_not_live {i : Instr} (hi : i.opcode ≠ .create) (h : s.engine.life ≠ .live) :
    exec i s = s.refuse (.notAdmitted s.engine.life) := by
  cases i <;> first | exact absurd rfl hi | exact State.whenLive_refused h _

/-- CREATE outside Absent is refused (44_binding_lifecycle.md R133). -/
theorem exec_create_not_absent (h : s.engine.life ≠ .absent) : exec .create s = s.refuse (.notAdmitted s.engine.life) :=
  State.whenAbsent_refused h _

/-- Every operation is performed, or raises BindingError, or is refused (00_scope.md R14). -/
theorem exec_ends (i : Instr) (s : State) : Ends s (exec i s) := by
  cases i
  case create => exact ends_whenAbsent (ends_complete _ _ _)
  case dmaTx data =>
    refine ends_whenLive (ends_whenBound ?_)
    split <;> exact ends_complete _ _ _
  case dmaRx n =>
    refine ends_whenLive (ends_whenBound ?_)
    split <;> exact ends_complete _ _ _
  case bindDma mgr tx rx =>
    refine ends_whenLive ?_
    split
    · split
      · exact ends_raise _ _
      · split
        · exact ends_raise _ _
        · exact ends_complete _ _ _
    · exact ends_raise _ _
  case bindCh dir ch =>
    refine ends_whenLive ?_
    split
    · exact ends_raise _ _
    · split
      · exact ends_raise _ _
      · exact ends_complete _ _ _
  all_goals exact ends_whenLive (ends_complete _ _ _)

/-! ### Everything an operation can do -/

/-- What performing an operation does to the engine and presents: one case per operation, two for the transfers, by the enable. -/
inductive Does (e : Engine) : Instr → Engine → Effects → Prop where
  | rdCs0 : Does e .rdCs0 e.clearLatches { reply := .word e.cs0 }
  | rdCs1 : Does e .rdCs1 e { reply := .word (zext32 e.txthr) }
  | rdCs2 : Does e .rdCs2 e { reply := .word (zext32 e.rxthr) }
  | rdCs3 : Does e .rdCs3 e { reply := .word e.cs3 }
  | rdCaddr : Does e .rdCaddr e { reply := .word (zext32 e.caddr) }
  | rdCdata : Does e .rdCdata e { reply := .word e.codecData }
  | wrCs0 (v : Word) : Does e (.wrCs0 v) (e.writeCs0 v) {}
  | wrCs1 (v : Word) : Does e (.wrCs1 v) { e with txthr := thresholdField v } {}
  | wrCs2 (v : Word) : Does e (.wrCs2 v) { e with rxthr := thresholdField v } {}
  | wrCs3 (v : Word) : Does e (.wrCs3 v) e {}
  | wrCaddr (v : Word) : Does e (.wrCaddr v) { e with caddr := codecAddressField v } {}
  | wrCdata (v : Word) : Does e (.wrCdata v) (e.setCodecData v) { conditions := conditionIf (e.badRate v) .configurationError }
  | transmit (data : List Byte) (bound : e.bindTx ≠ none) (on : e.txen = true) :
      Does e (.dmaTx data) ((e.push data).latchOverrun (decide (e.accepts data < data.length)))
        { reply := .accepted (e.accepts data)
          pulses := { dev := decide (e.accepts data < data.length) && !e.ovr, txdma := decide (e.accepts data < data.length) && !e.ovr }
          conditions := conditionIf (decide (e.accepts data < data.length)) .overrun }
  | transmitOff (data : List Byte) (bound : e.bindTx ≠ none) (off : e.txen = false) : Does e (.dmaTx data) e { reply := .accepted 0 }
  | receive (n : Nat) (bound : e.bindRx ≠ none) (on : e.rxen = true) :
      Does e (.dmaRx n) ((e.pop n).latchUnderrun (decide ((e.popBytes n).length < n)))
        { reply := .received (zeroFill n (e.popBytes n))
          pulses := { dev := decide ((e.popBytes n).length < n) && !e.unr }
          conditions := conditionIf (decide ((e.popBytes n).length < n)) .underrun }
  | receiveOff (n : Nat) (bound : e.bindRx ≠ none) (off : e.rxen = false) : Does e (.dmaRx n) e { reply := .received (zeros n) }
  | tick (host : List Byte) :
      Does e (.tick host) (e.playbackPart.1.capturePart host).1 (e.playbackPart.2.union (e.playbackPart.1.capturePart host).2)
  | bindDma (mgr tx rx : ChanId) (unregistered : e.dmaReg = false) (idle : e.active = false) :
      Does e (.bindDma (some mgr) (some tx) (some rx)) (e.register tx rx) {}
  | bindCh (dir : Dir) (ch : ChanId) (idle : e.active = false) : Does e (.bindCh dir (some ch)) (e.bind dir ch) {}
  | create : Does e .create Engine.created { voice := some (.openVoice .s16 voiceChannels) }
  | reset : Does e .reset e.afterReset {}
  | teardown : Does e .teardown e.tornDown { voice := some .closeVoice }
  | ringPush (data : List Byte) : Does e (.ringPush data) (e.push data) { reply := .pushed (e.accepts data) }
  | ringPop (n : Nat) : Does e (.ringPop n) (e.pop n) { reply := .popped (e.popBytes n) }

/-- An operation is refused where its life state does not admit it; else it raises BindingError, which only registrations and transfers
do, or is performed (44_binding_lifecycle.md R133, 60_exceptions.md R160, R161). -/
theorem exec_cases (i : Instr) (s : State) :
    (admits s.engine.life i.opcode = false ∧ exec i s = s.refuse (.notAdmitted s.engine.life)) ∨
    (s.engine.life = .live ∧ i.opcode ∈ [Opcode.bindDma, .bindCh, .dmaTx, .dmaRx] ∧ ∃ why, exec i s = s.raise why) ∨
    (admits s.engine.life i.opcode = true ∧ ∃ e fx, Does s.engine i e fx ∧ exec i s = s.complete e fx) := by
  by_cases hc : i.opcode = .create
  · have hi : i = .create := by cases i <;> first | rfl | exact absurd hc (by simp [Instr.opcode])
    subst hi
    by_cases h : s.engine.life = .absent
    · exact .inr (.inr ⟨by rw [h]; rfl, _, _, .create, exec_create h⟩)
    · refine .inl ⟨?_, exec_create_not_absent h⟩
      cases hl : s.engine.life <;> first | exact absurd hl h | rfl
  by_cases h : s.engine.life = .live
  · have ha : admits s.engine.life i.opcode = true := by rw [h]; simp [admits, hc]
    cases i
    case create => exact absurd rfl hc
    case dmaTx data =>
      by_cases hb : s.engine.bindTx = none
      · exact .inr (.inl ⟨h, by simp [Instr.opcode], _, exec_dmaTx_unbound h hb data⟩)
      cases he : s.engine.txen
      · exact .inr (.inr ⟨ha, _, _, .transmitOff data hb he, exec_dmaTx_disabled h hb he data⟩)
      · exact .inr (.inr ⟨ha, _, _, .transmit data hb he, exec_dmaTx_enabled h hb he data⟩)
    case dmaRx n =>
      by_cases hb : s.engine.bindRx = none
      · exact .inr (.inl ⟨h, by simp [Instr.opcode], _, exec_dmaRx_unbound h hb n⟩)
      cases he : s.engine.rxen
      · exact .inr (.inr ⟨ha, _, _, .receiveOff n hb he, exec_dmaRx_disabled h hb he n⟩)
      · exact .inr (.inr ⟨ha, _, _, .receive n hb he, exec_dmaRx_enabled h hb he n⟩)
    case bindDma mgr tx rx =>
      have absent {mgr tx rx : Option ChanId} (hn : mgr = none ∨ tx = none ∨ rx = none) :
          exec (.bindDma mgr tx rx) s = s.raise .noChannel := by
        obtain rfl | rfl | rfl := hn
        · exact State.whenLive_live h _
        · cases mgr <;> exact State.whenLive_live h _
        · cases mgr <;> cases tx <;> exact State.whenLive_live h _
      by_cases hn : mgr = none ∨ tx = none ∨ rx = none
      · exact .inr (.inl ⟨h, by simp [Instr.opcode], _, absent hn⟩)
      obtain ⟨mgr, rfl⟩ := Option.ne_none_iff_exists'.mp fun e => hn (.inl e)
      obtain ⟨tx, rfl⟩ := Option.ne_none_iff_exists'.mp fun e => hn (.inr (.inl e))
      obtain ⟨rx, rfl⟩ := Option.ne_none_iff_exists'.mp fun e => hn (.inr (.inr e))
      cases hr : s.engine.dmaReg
      · cases hx : s.engine.active
        · exact .inr (.inr ⟨ha, _, _, .bindDma mgr tx rx hr hx, exec_bindDma_bound h hr hx mgr tx rx⟩)
        · refine .inr (.inl ⟨h, by simp [Instr.opcode], .activeEngine, (State.whenLive_live h _).trans ?_⟩)
          simp only [hr, hx, Bool.false_eq_true, if_false, if_true]
      · refine .inr (.inl ⟨h, by simp [Instr.opcode], .alreadyRegistered, (State.whenLive_live h _).trans ?_⟩)
        simp only [hr, if_true]
    case bindCh dir ch =>
      cases ch with
      | none => exact .inr (.inl ⟨h, by simp [Instr.opcode], .noChannel, State.whenLive_live h _⟩)
      | some ch =>
        cases hx : s.engine.active
        · exact .inr (.inr ⟨ha, _, _, .bindCh dir ch hx, exec_bindCh_bound h hx dir ch⟩)
        · refine .inr (.inl ⟨h, by simp [Instr.opcode], .activeEngine, (State.whenLive_live h _).trans ?_⟩)
          simp only [hx, if_true]
    all_goals exact .inr (.inr ⟨ha, _, _, by constructor, State.whenLive_live h _⟩)
  · refine .inl ⟨?_, exec_not_live hc h⟩
    cases hl : s.engine.life <;> first | exact absurd hl h | simp [admits, hc]

/-- No operation waits: each answers a next state (20_memory.md R53). -/
theorem exec_next (i : Instr) (s : State) : ∃ t, exec i s = .next t := by
  obtain ⟨-, h⟩ | ⟨-, -, why, h⟩ | ⟨-, e, fx, -, h⟩ := exec_cases i s <;> exact ⟨_, h⟩

@[simp] theorem stateAt_zero (ops : Nat → Instr) (s : State) : stateAt ops s 0 = s := rfl

theorem stateAt_succ {ops : Nat → Instr} {s t : State} {n : Nat} (h : exec (ops n) (stateAt ops s n) = .next t) :
    stateAt ops s (n + 1) = t := by
  rw [stateAt, h]

end Sys2Proof.Machine
end

