-- ==== Sys2Proof/Laws/PerInstr.lean ====
section
/-! SUPPORT. Statements about every operation as syntax, one lemma per constructor. Family Keys: the key an operation is
encoded with names that operation and no other (30_encoding.md R65, R66). -/

namespace Sys2Proof.Laws.Keys

/-- The encoder's key reads back, class and selector, as the operation's own row of the map (30_encoding.md R65, R66). -/
def Statement (i : Instr) : Prop :=
  decodeKey (encode i).key = some i.opcode ∧ (encode i).key.cls = i.opcode.cls ∧ (encode i).key.selector = i.opcode.selector

theorem key_reads_back (op : Opcode) : decodeKey op.key = some op ∧ op.key.cls = op.cls ∧ op.key.selector = op.selector := by
  cases op <;> decide

theorem rdCs0 : Statement (.rdCs0) := key_reads_back _
theorem rdCs1 : Statement (.rdCs1) := key_reads_back _
theorem rdCs2 : Statement (.rdCs2) := key_reads_back _
theorem rdCs3 : Statement (.rdCs3) := key_reads_back _
theorem rdCaddr : Statement (.rdCaddr) := key_reads_back _
theorem rdCdata : Statement (.rdCdata) := key_reads_back _
theorem wrCs0 (v : Word) : Statement (.wrCs0 v) := key_reads_back _
theorem wrCs1 (v : Word) : Statement (.wrCs1 v) := key_reads_back _
theorem wrCs2 (v : Word) : Statement (.wrCs2 v) := key_reads_back _
theorem wrCs3 (v : Word) : Statement (.wrCs3 v) := key_reads_back _
theorem wrCaddr (v : Word) : Statement (.wrCaddr v) := key_reads_back _
theorem wrCdata (v : Word) : Statement (.wrCdata v) := key_reads_back _
theorem dmaTx (data : List Byte) : Statement (.dmaTx data) := key_reads_back _
theorem dmaRx (n : Nat) : Statement (.dmaRx n) := key_reads_back _
theorem tick (host : List Byte) : Statement (.tick host) := key_reads_back _
theorem bindDma (mgr tx rx : Option ChanId) : Statement (.bindDma mgr tx rx) := key_reads_back _
theorem bindCh (dir : Dir) (ch : Option ChanId) : Statement (.bindCh dir ch) := key_reads_back _
theorem create : Statement (.create) := key_reads_back _
theorem reset : Statement (.reset) := key_reads_back _
theorem teardown : Statement (.teardown) := key_reads_back _
theorem ringPush (data : List Byte) : Statement (.ringPush data) := key_reads_back _
theorem ringPop (n : Nat) : Statement (.ringPop n) := key_reads_back _

end Sys2Proof.Laws.Keys
end

