-- ==== Sys2Proof/Machine/Assembler.lean ====
section
/-! DEFINITION. The assembler syntax of 30_encoding.md R76: one line of text for an operation. It names operations and has no
effect on the machine. -/

namespace Sys2Proof

/-- A hexadecimal digit. -/
def hexDigit (n : Nat) : String := ["0", "1", "2", "3", "4", "5", "6", "7", "8", "9", "A", "B", "C", "D", "E", "F"].getD n "?"

/-- The last `digits` hexadecimal digits of a number. -/
def hexDigits : Nat → Nat → String
  | 0, _ => ""
  | digits + 1, n => hexDigits digits (n / 16) ++ hexDigit (n % 16)

/-- A 32-bit value: "hexadecimal with `0x`" (R76). -/
def asmWord (v : Word) : String := "0x" ++ hexDigits (Config.registerWidth / 4) v.toNat

/-- A byte string: the listed bytes in hexadecimal, in brackets (R76). -/
def asmBytes (data : List Byte) : String := "[" ++ " ".intercalate (data.map fun b => hexDigits 2 b.toNat) ++ "]"

/-- A channel identifier, `none` for an absent one (R76). -/
def asmChannel : Option ChanId → String
  | none => "none"
  | some c => toString c

/-- A direction (R76). -/
def asmDir : Dir → String
  | .tx => "TX"
  | .rx => "RX"

/-- The line of assembler text of an operation (R76). -/
def Instr.asm : Instr → String
  | .rdCs0 => "rd CS0"
  | .rdCs1 => "rd CS1"
  | .rdCs2 => "rd CS2"
  | .rdCs3 => "rd CS3"
  | .rdCaddr => "rd CADDR"
  | .rdCdata => "rd CDATA"
  | .wrCs0 v => "wr CS0, " ++ asmWord v
  | .wrCs1 v => "wr CS1, " ++ asmWord v
  | .wrCs2 v => "wr CS2, " ++ asmWord v
  | .wrCs3 v => "wr CS3, " ++ asmWord v
  | .wrCaddr v => "wr CADDR, " ++ asmWord v
  | .wrCdata v => "wr CDATA, " ++ asmWord v
  | .dmaTx data => "dma.tx " ++ asmBytes data
  | .dmaRx n => "dma.rx " ++ toString n
  | .tick host => "tick <- " ++ asmBytes host
  | .bindDma mgr tx rx => "bind " ++ asmChannel mgr ++ ", " ++ asmChannel tx ++ ", " ++ asmChannel rx
  | .bindCh dir ch => "bindch " ++ asmDir dir ++ ", " ++ asmChannel ch
  | .create => "create"
  | .reset => "reset"
  | .teardown => "teardown"
  | .ringPush data => "push " ++ asmBytes data
  | .ringPop n => "pop " ++ toString n

end Sys2Proof
end

