-- ==== Sys2Proof/Tests/Slice0.lean ====
section
/-! SUPPORT. Tests with their expected values taken from 30_encoding.md R66 and the vectors of 95_test_vectors.md, and for every
statement that has hypotheses a witness that meets them. -/

namespace Sys2Proof.Tests

open Sys2Proof.Machine

/-! ### Well-formedness and decoding -/

/-- A host frame of three bytes is ill formed and the decoder refuses it (43_streaming.md R125). -/
theorem test_wellformed_refuses_short_frame :
    ¬ Instr.WellFormed (.tick [1, 2, 3]) ∧
      decode { key := 0b01100000000#11, operands := .hostFrame [1, 2, 3] } = .error (.frameLength 3) := by decide

theorem test_wellformed_accepts_frame : Instr.WellFormed (.tick [1, 2, 3, 4]) := by decide

/-- The keys of R66 for the register reads, class 000 and the register's offset. -/
theorem test_decode_reads :
    decode { key := 0b00000000000#11, operands := .read 32 } = .ok .rdCs0 ∧
    decode { key := 0b00000000100#11, operands := .read 32 } = .ok .rdCs1 ∧
    decode { key := 0b00000001000#11, operands := .read 32 } = .ok .rdCs2 ∧
    decode { key := 0b00000001100#11, operands := .read 32 } = .ok .rdCs3 ∧
    decode { key := 0b00000010000#11, operands := .read 32 } = .ok .rdCaddr ∧
    decode { key := 0b00000010100#11, operands := .read 32 } = .ok .rdCdata := by decide

/-- The keys of R66 for the register writes, class 001. -/
theorem test_decode_writes :
    decode { key := 0b00100000000#11, operands := .write 32 1 } = .ok (.wrCs0 1) ∧
    decode { key := 0b00100000100#11, operands := .write 32 4 } = .ok (.wrCs1 4) ∧
    decode { key := 0b00100001000#11, operands := .write 32 8 } = .ok (.wrCs2 8) ∧
    decode { key := 0b00100001100#11, operands := .write 32 9 } = .ok (.wrCs3 9) ∧
    decode { key := 0b00100010000#11, operands := .write 32 3 } = .ok (.wrCaddr 3) ∧
    decode { key := 0b00100010100#11, operands := .write 32 0x7F } = .ok (.wrCdata 0x7F) := by decide

/-- The keys of R66 for transfers, ticks and bindings, classes 010, 011 and 100. -/
theorem test_decode_transfers_ticks_bindings :
    decode { key := 0b01000000000#11, operands := .bytes [0x55] } = .ok (.dmaTx [0x55]) ∧
    decode { key := 0b01000000001#11, operands := .count 6 } = .ok (.dmaRx 6) ∧
    decode { key := 0b01100000000#11, operands := .hostFrame [1, 2, 3, 4] } = .ok (.tick [1, 2, 3, 4]) ∧
    decode { key := 0b10000000000#11, operands := .channels (some 9) (some 1) none } = .ok (.bindDma (some 9) (some 1) none) ∧
    decode { key := 0b10000000001#11, operands := .channel .rx (some 5) } = .ok (.bindCh .rx (some 5)) := by decide

/-- The keys of R66 for the life cycle and the ring primitives, classes 101 and 110. -/
theorem test_decode_life_ring :
    decode { key := 0b10100000000#11, operands := .nothing } = .ok .create ∧
    decode { key := 0b10100000001#11, operands := .nothing } = .ok .reset ∧
    decode { key := 0b10100000010#11, operands := .nothing } = .ok .teardown ∧
    decode { key := 0b11000000000#11, operands := .bytes [1, 2] } = .ok (.ringPush [1, 2]) ∧
    decode { key := 0b11000000001#11, operands := .count 3 } = .ok (.ringPop 3) := by decide

/-- Vectors EN1, EN2, EN5 to EN10: reserved keys. -/
theorem test_decode_reserved_keys :
    ∀ k ∈ ([0x018, 0x102, 0x202, 0x301, 0x402, 0x503, 0x602, 0x700, 0x7FF] : List Key), decodeKey k = none := by decide

/-- Vectors EN3 and EN4: a 16-bit read at offset 0x00 and an 8-bit write at offset 0x14. -/
theorem test_decode_access_width :
    decode (Transaction.busRead 16 0x00) = .error (.accessWidth 16) ∧
      decode (Transaction.busWrite 8 0x14 1) = .error (.accessWidth 8) := by decide

/-- Every row of the map is read back from its own key (R66). -/
theorem test_decode_every_key : ∀ op ∈ Opcode.all, decodeKey op.key = some op := by decide

theorem test_table_word : decodeTableWord 16 0x114 = some (.wrCdata 0) ∧ decodeTableWord 16 0x700 = none := by decide

/-- The window of R46 and the codec address of R27 come out of the register counts 6 and 8. -/
theorem test_config_counts :
    Config.windowBytes = 0x18 ∧ Config.codecAddressWidth = 3 ∧ Config.storedCodecRegisters = 7 ∧ registerAt 0x14 = some 5 ∧
      registerAt 0x18 = none ∧ registerAt 0x02 = none := by decide

/-- The constraints of 00_scope.md R5 hold of the spec's values. -/
theorem test_config_valid : Config.Valid :=
  ⟨by decide, by decide, by decide, by simp [Config.rates], by norm_num [Config.ringCapacity], by decide, by decide⟩

/-- The codec index of the source's vector V5, a number taken from the source (00_scope.md R4). -/
def vectorCodecIndex : Word := 3

/-- The codec value of vector V5 (00_scope.md R4). -/
def vectorCodecValue : Word := 0x7F

/-! ### Small states -/

/-- S0, the start state of 95_test_vectors.md section 0: created, then `bind 9, 1, 2`. -/
def s0 : State := { State.reset with engine := { Engine.created with bindTx := some 1, bindRx := some 2, dmaReg := true } }

/-- A state with the two enables set to given values. -/
def enabled (tx rx : Bool) (s : State) : State := { s with engine := { s.engine with txen := tx, rxen := rx } }

/-- A ring of `n` zero bytes loaded by one push from cursors 0. -/
def zerosHeld (n : Nat) (s : State) : State :=
  { s with engine := { s.engine with wp := n % Config.ringCapacity, full := decide (n = Config.ringCapacity) } }

/-- A ring loaded with a few bytes by one push. -/
def holding (data : List Byte) (s : State) : State := { s with engine := s.engine.push data }

/-- Both latches set. -/
def latched (s : State) : State := { s with engine := { s.engine with ovr := true, unr := true } }

/-- A life state. -/
def inLife (l : Life) (s : State) : State := { s with engine := { s.engine with life := l } }

/-- An observation of the state one operation leads to. -/
def after {α : Type} (i : Instr) (s : State) (f : State → α) : Option α :=
  match exec i s with
  | .next t => some (f t)
  | .fault _ => none
  | .refused _ => none

/-! ### Register access -/

/-- Vector RA8. -/
theorem test_rdCs0_full_overrun :
    after .rdCs0 (zerosHeld 16384 { s0 with engine := { s0.engine with txen := true, ovr := true } })
      (fun t => (t.returned, t.engine.ovr, t.engine.full)) = some ([.word 0x15], false, true) := by decide

/-- Vector RA9: one read clears both latches. -/
theorem test_rdCs0_clears_both :
    after .rdCs0 (zerosHeld 8 (latched s0)) (fun t => (t.returned, t.engine.ovr, t.engine.unr)) = some ([.word 0xC], false, false) := by
  decide

theorem test_rdCs1 : after .rdCs1 { s0 with engine := { s0.engine with txthr := 0x7FFF, rxthr := 1 } } State.returned =
    some [.word 0x7FFF] := by decide

theorem test_rdCs2 : after .rdCs2 { s0 with engine := { s0.engine with txthr := 1, rxthr := 8 } } State.returned =
    some [.word 8] := by decide

/-- Vector RA14: the occupancy of a full ring is C. -/
theorem test_rdCs3_full : after .rdCs3 (zerosHeld 16384 s0) State.returned = some [.word 0x4000] := by decide

/-- Vector RA15. -/
theorem test_rdCaddr : after .rdCaddr { s0 with engine := { s0.engine with caddr := 2 } } State.returned = some [.word 2] := by decide

/-- Vector RA19: index 7 is the rate. -/
theorem test_rdCdata_rate : after .rdCdata { s0 with engine := { s0.engine with caddr := 7 } } State.returned = some [.word 0xAC44] := by
  decide

/-- Vector RA18: index 6 has storage of its own. -/
theorem test_rdCdata_six :
    after .rdCdata { s0 with engine := { s0.engine with caddr := 6, codec := s0.engine.codec.set 6 1 } } State.returned =
      some [.word 1] := by decide

/-- Vector RA5: RXEN from 0 to 1 flushes the whole ring. -/
theorem test_wrCs0_flushes :
    after (.wrCs0 3) (zerosHeld 100 (enabled true false s0)) (fun t => (t.engine.txen, t.engine.rxen, t.engine.occ)) =
      some (true, true, 0) := by decide

/-- Vector RA4: TXEN from 1 to 0 keeps the ring. -/
theorem test_wrCs0_off_keeps :
    after (.wrCs0 0) (zerosHeld 100 (enabled true false s0)) (fun t => (t.engine.txen, t.engine.occ)) = some (false, 0x64) := by decide

/-- Vectors RA10 and RA11: bit 15 and above are dropped. -/
theorem test_wrCs1 :
    after (.wrCs1 0xFFFFFFFF) s0 (fun t => t.engine.txthr.toNat) = some 32767 ∧
      after (.wrCs1 0x00008004) s0 (fun t => t.engine.txthr.toNat) = some 4 := by decide

/-- Vector RA12. -/
theorem test_wrCs2 : after (.wrCs2 0x00010008) s0 (fun t => (t.engine.rxthr.toNat, t.engine.txthr.toNat)) = some (8, 0) := by decide

/-- Vector RA13: a CS3 write changes nothing. -/
theorem test_wrCs3 : after (.wrCs3 0) (zerosHeld 8 s0) (fun t => t.engine) = some (zerosHeld 8 s0).engine := by decide

/-- Vector RA15: bits 2:0. -/
theorem test_wrCaddr : after (.wrCaddr 0xFFFFFFFA) s0 (fun t => t.engine.caddr) = some 2 := by decide

/-- Vector RA17: all 32 bits are stored, in the selected register alone. -/
theorem test_wrCdata_stores :
    after (.wrCdata 0xDEADBEEF) s0 (fun t => (t.engine.codec[0], t.engine.codec[1], t.engine.rate)) =
      some (0xDEADBEEF, 0, 44100) := by decide

/-- Vector V5, its data write: the register its index selects, and no other. -/
theorem test_wrCdata_vector :
    after (.wrCdata vectorCodecValue) { s0 with engine := { s0.engine with caddr := codecAddressField vectorCodecIndex } }
      (fun t => (t.engine.codec[3], t.engine.codec[2], t.engine.codec[4])) = some (0x7F, 0, 0) := by decide

/-! ### The clamp: section 2.2, rows on both sides of a tie -/

theorem test_clamp_low : clampRate 8084 = 7350 ∧ clampRate 8085 = 8820 ∧ clampRate 1 = 7350 := by decide

theorem test_clamp_high : clampRate 36749 = 29400 ∧ clampRate 36750 = 44100 ∧ clampRate 0xFFFFFFFF = 44100 := by decide

/-! ### The ring -/

/-- Vector RB10: a push that wraps. -/
theorem test_ringPush_wraps :
    after (.ringPush [0xA1, 0xA2, 0xA3, 0xA4]) { s0 with engine := { s0.engine with wp := 16382, rp := 16382 } }
      (fun t => (t.engine.ring, t.engine.wp, t.engine.occ, t.returned)) =
        some ([(0, 0xA3), (1, 0xA4), (16382, 0xA1), (16383, 0xA2)], 2, 4, [.pushed 4]) := by decide

/-- Vector RB9: only what fits is taken; no latch is set and no line pulsed. -/
theorem test_ringPush_short :
    after (.ringPush (List.replicate 8 0x66)) (zerosHeld 16380 s0)
      (fun t => (t.engine.full, t.engine.ovr, t.pulseSets, t.returned)) = some (true, false, [{}], [.pushed 4]) := by decide

/-- Vector RB11: a pop that wraps. -/
theorem test_ringPop_wraps :
    after (.ringPop 4) { s0 with engine := ({ s0.engine with wp := 16382, rp := 16382 }).push [0xA1, 0xA2, 0xA3, 0xA4] }
      (fun t => (t.engine.rp, t.engine.occ, t.returned)) = some (2, 0, [.popped [0xA1, 0xA2, 0xA3, 0xA4]]) := by decide

/-- Vector RB7: a pop from a full ring. -/
theorem test_ringPop_full :
    after (.ringPop 1) (zerosHeld 16384 s0) (fun t => (t.engine.rp, t.engine.full, t.engine.occ)) = some (1, false, 16383) := by decide

theorem test_memory_form :
    Memory.wf State.reset.engine.ring ∧ Memory.wf (Memory.write (Memory.write [] 7 1) 3 2) ∧
      Memory.write (Memory.write [] 7 1) 7 0 = [] := by decide

/-! ### Transfers -/

/-- Vector DM5: four of eight bytes fit. -/
theorem test_dmaTx_overrun :
    after (.dmaTx (List.replicate 8 0x55)) (zerosHeld 16380 (enabled true false s0))
      (fun t => (t.returned, t.pulseSets, t.engine.ovr, t.engine.full)) =
        some ([.accepted 4], [{ dev := true, txdma := true }], true, true) := by decide

/-- Vectors DM17 and DM19: an unbound transmit direction, tested before the enable. -/
theorem test_dmaTx_unbound :
    after (.dmaTx [0xAA]) State.reset (fun t => (t.engine.life, t.returned, t.pulseSets)) = some (.faulted, [.nothing], [{}]) := by decide

/-- Vector DM12: the shortfall is zeros and sets UNR. -/
theorem test_dmaRx_underrun :
    after (.dmaRx 4) (holding [0xAA, 0xBB] (enabled false true s0))
      (fun t => (t.returned, t.pulseSets, t.engine.unr, t.engine.occ)) =
        some ([.received [0xAA, 0xBB, 0, 0]], [{ dev := true }], true, 0) := by decide

/-- Vector DM14: nothing asked for is no underrun. -/
theorem test_dmaRx_nothing :
    after (.dmaRx 0) (enabled false true s0) (fun t => (t.returned, t.engine.unr)) = some ([.received []], false) := by decide

/-! ### The tick -/

/-- Vector TK5: a partial frame is completed with zeros and goes through CODEC_OUT; UNR and the crossing of TXTHR = 0 pulse. -/
theorem test_tick_partial_frame :
    after (.tick [0, 0, 0, 0]) (holding [0xAA, 0xBB, 0xCC] (enabled true false s0)) (fun t => (t.sinkFrames, t.pulseSets, t.engine.unr)) =
      some ([Config.codecOut s0.engine.codec (frameOf [0xAA, 0xBB, 0xCC, 0])], [{ dev := true, txdma := true }], true) := by rfl

/-- Vectors TK16 and TK21: a capture into a ring with room for two bytes, and a tick with both directions. -/
theorem test_tick_capture :
    after (.tick [1, 2, 3, 4])
      { zerosHeld 16382 (enabled false true s0) with engine := { (zerosHeld 16382 (enabled false true s0)).engine with rxthr := 16384 } }
      (fun t => (t.pulseSets, t.engine.full, t.engine.ovr)) = some ([{ dev := true, rxdma := true }], true, true) ∧
    after (.tick [1, 2, 3, 4]) { zerosHeld 4 (enabled true true s0) with engine := { (zerosHeld 4 (enabled true true s0)).engine with rxthr := 4 } }
      (fun t => (t.pulseSets, t.engine.occ, t.engine.ovr, t.engine.unr)) =
        some ([{ txdma := true, rxdma := true }], 4, false, false) := ⟨rfl, rfl⟩

/-! ### Binding and life cycle -/

/-- Vector BL2. -/
theorem test_bindDma :
    after (.bindDma (some 9) (some 1) (some 2)) State.reset (fun t => (t.engine.bindTx, t.engine.bindRx, t.engine.dmaReg)) =
      some (some 1, some 2, true) := by decide

/-- Vector BL6: a second registration aborts setup and keeps the bindings. -/
theorem test_bindDma_again :
    after (.bindDma (some 9) (some 3) (some 4)) s0 (fun t => (t.engine.life, t.engine.bindTx, t.engine.bindRx)) =
      some (.faulted, some 1, some 2) := by decide

/-- Vector BL8. -/
theorem test_bindCh :
    after (.bindCh .tx (some 5)) s0 (fun t => (t.engine.bindTx, t.engine.bindRx, t.engine.dmaReg)) = some (some 5, some 2, true) := by decide

/-- Vector BL10: an active engine. -/
theorem test_bindCh_active : after (.bindCh .tx (some 5)) (enabled false true s0) (fun t => (t.engine.life, t.engine.bindTx)) =
    some (.faulted, some 1) := by decide

/-- Vector BL1: the voice is opened with S16 and two channels. -/
theorem test_create :
    after .create State.absent (fun t => (t.engine, t.trace)) = some (Engine.created, [.done { voice := some (.openVoice .s16 2) }]) := by
  decide

/-- Vector BL15: the second `create` is refused. -/
theorem test_create_twice : after .create State.reset (fun t => (t.engine, t.refusalMark)) = some (Engine.created, true) := by decide

/-- Vector BL16: registers, cursors, latches and enables reset, bindings kept. -/
theorem test_reset :
    after .reset (zerosHeld 16384 (latched (enabled true false { s0 with engine := { s0.engine with txthr := 4, caddr := 3, rate := 22050 } })))
      (fun t => t.engine) = some s0.engine := by decide

/-- Vector BL17. -/
theorem test_teardown :
    after .teardown s0 (fun t => (t.engine.life, t.engine.bindTx, t.engine.bindRx, t.engine.voice)) =
      some (.gone, none, none, .closed) := by decide

/-- Vector BL14: a read before `create`. -/
theorem test_refused_before_create :
    after .rdCs0 State.absent (fun t => (t.engine, t.refusalMark, t.returned)) = some (State.absent.engine, true, [.nothing]) := by decide

/-! ### The codes of R148 -/

theorem test_condition_codes :
    noConditionCode = 0 ∧ [Condition.configurationError, .overrun, .underrun, .bindingError].map Condition.code = [1, 2, 3, 4] := by decide

/-- One operation for each row of the table: none, ConfigurationError, Overrun, Underrun, BindingError. -/
theorem test_codes_of_operations :
    after (.wrCs1 4) s0 (fun t => t.trace.map Output.codes) = some [[0]] ∧
    after (.wrCdata 1) { s0 with engine := { s0.engine with caddr := 7 } } (fun t => t.trace.map Output.codes) = some [[1]] ∧
    after (.dmaTx [1]) (zerosHeld 16384 (enabled true false s0)) (fun t => t.trace.map Output.codes) = some [[2]] ∧
    after (.dmaRx 1) (enabled false true s0) (fun t => t.trace.map Output.codes) = some [[3]] ∧
    after (.bindCh .rx none) s0 (fun t => t.trace.map Output.codes) = some [[4]] := by decide

/-! ### Steps -/

/-- Key 0x010, presented first after reset, reads the codec address. -/
theorem test_step_fetches_word :
    step (State.reset.withFetchWord 16 0x010) = .next { State.reset with trace := [.done { reply := .word 0 }] } := rfl

/-- Vector EN10: class 7 is refused. -/
theorem test_step_refuses_reserved :
    step (State.reset.withFetchWord 16 0x700) =
      .next { State.reset with refusalMark := true, trace := [.refused (.illegal (.reservedKey 0x700))] } := rfl

theorem test_instances_apart :
    (match Instances.execAt [s0, s0] 1 .teardown with
      | .next m => m.map fun s => s.engine.life
      | _ => []) = [.live, .gone] := by decide

/-! ### Witnesses: for every statement with hypotheses, states and operands that meet all of them, at the ends of their ranges -/

/-- A full ring, transmit and receive enabled. -/
def fullRing : State := zerosHeld 16384 (enabled true true s0)

/-- One byte short of full. -/
def almostFull : State := zerosHeld 16383 (enabled true true s0)

/-- The codec address set. -/
def selecting (a : BitVec Config.codecAddressWidth) : State := { s0 with engine := { s0.engine with caddr := a } }

theorem witness_RegisterWidthIsThirtyTwo :
    (16 ≠ 32 ∧ (0x00 : BitVec 8) ∈ [(0x00 : BitVec 8), 0x04, 0x08, 0x0C, 0x10, 0x14]) ∧
      (33 ≠ 32 ∧ (0x14 : BitVec 8) ∈ [(0x00 : BitVec 8), 0x04, 0x08, 0x0C, 0x10, 0x14]) := by decide

theorem witness_DecodeOfEncode : Instr.WellFormed (.tick [0xFF, 0, 0, 1]) ∧ Instr.WellFormed (.dmaTx []) := by decide

theorem witness_EncodeOfDecode : decode (encode (.bindCh .rx none)) = .ok (.bindCh .rx none) := by decide

theorem witness_StepPerformsOldestPresented :
    ∃ rest i, (s0.withFetchWord 16 0x104).pending = Transaction.busWrite 32 0x04 0 :: rest ∧
      decode (Transaction.busWrite 32 0x04 0) = .ok i := ⟨[], .wrCs1 0, by decide, by decide⟩

theorem witness_UndecodableIsRefused :
    ∃ rest why, (s0.presentFirst (Transaction.busRead 16 0x00)).pending = Transaction.busRead 16 0x00 :: rest ∧
      decode (Transaction.busRead 16 0x00) = .error why := ⟨[], .accessWidth 16, by decide, by decide⟩

theorem witness_EveryStepCompletes : State.reset.pending = [] ∧ (s0.withFetchWord 16 0x7FF).pending ≠ [] := by decide

theorem witness_ReadCs0ReturnsFlagsClearsLatches : (latched fullRing).engine.life = .live ∧ State.reset.engine.life = .live := by decide

theorem witness_PlainReadsReturnTheirFields : fullRing.engine.life = .live ∧ State.reset.engine.life = .live := by decide

theorem witness_ReadCodecData :
    (selecting 7).engine.life = .live ∧ (selecting 7).engine.caddr = 7 ∧ (selecting 7).engine.Inv ∧
      (selecting 6).engine.life = .live ∧ (selecting 6).engine.caddr.toNat < 7 ∧ (selecting 0).engine.caddr.toNat < 7 := by decide

theorem witness_WriteCs0SetsEnablesAndFlushes :
    fullRing.engine.life = .live ∧ fullRing.engine.txen = true ∧ s0.engine.life = .live ∧ s0.engine.rxen = false := by decide

theorem witness_WriteThresholds : s0.engine.life = .live := by decide

theorem witness_WriteCs3HasNoEffect : fullRing.engine.life = .live := by decide

theorem witness_WriteCodecAddress : s0.engine.life = .live := by decide

theorem witness_WriteCodecData :
    (selecting 6).engine.life = .live ∧ (selecting 6).engine.caddr.toNat < 7 ∧ (selecting 0).engine.caddr.toNat < 7 ∧
      (selecting 7).engine.life = .live ∧ (selecting 7).engine.caddr = 7 := by decide

theorem witness_ClampIsNearestSupportedRate : (7350 : Word) ∈ Config.rates ∧ (44100 : Word) ∈ Config.rates := by decide

theorem witness_CodecPairReadsBack :
    s0.engine.life = .live ∧ (0 : Word).toNat % 8 < 7 ∧ (6 : Word).toNat % 8 < 7 ∧ (0xFFFFFFFE : Word).toNat % 8 < 7 := by decide

theorem witness_SetRateGetRate : fullRing.engine.life = .live := by decide

theorem witness_RegisterWritesIdempotent :
    fullRing.engine.life = .live ∧ Instr.wrCdata 5 ∈ [Instr.wrCs0 5, .wrCs1 5, .wrCs2 5, .wrCs3 5, .wrCaddr 5, .wrCdata 5] := by decide

theorem witness_RingPushStoresAcceptedBytes :
    (s0.engine.life = .live ∧ s0.engine.ring.wf) ∧ (almostFull.engine.life = .live ∧ almostFull.engine.ring.wf) ∧
      (holding [1, 0, 2] s0).engine.life = .live ∧ (holding [1, 0, 2] s0).engine.ring.wf := by decide

theorem witness_RingPopReturnsBytesAtReadCursor : fullRing.engine.life = .live ∧ s0.engine.life = .live := by decide

theorem witness_OccupancyBounds : fullRing.engine.RingInv ∧ almostFull.engine.RingInv ∧ s0.engine.RingInv := by decide

theorem witness_RingSequencesKeepCountAndOrder :
    (fullRing.engine.life = .live ∧ fullRing.engine.RingInv) ∧ (holding [1, 0, 2] s0).engine.life = .live ∧
      (holding [1, 0, 2] s0).engine.RingInv := by decide

theorem witness_PushCornerCases :
    ((s0.engine.life = .live ∧ s0.engine.RingInv) ∧ ([1] : List Byte).length < Config.ringCapacity - s0.engine.occ) ∧
      (fullRing.engine.life = .live ∧ fullRing.engine.RingInv ∧ fullRing.engine.full = true) ∧
      almostFull.engine.life = .live ∧ almostFull.engine.RingInv ∧
      ([1] : List Byte).length = Config.ringCapacity - almostFull.engine.occ := by decide

theorem witness_PopCornerCases :
    (s0.engine.life = .live ∧ s0.engine.RingInv ∧ s0.engine.occ = 0) ∧
      (fullRing.engine.life = .live ∧ fullRing.engine.RingInv ∧ fullRing.engine.full = true ∧ 16384 = fullRing.engine.occ) ∧
      almostFull.engine.life = .live ∧ almostFull.engine.RingInv ∧ 16383 = almostFull.engine.occ := by decide

theorem witness_RingBytesChangedOnlyByPushes :
    ∃ t, exec (.dmaRx 2) (holding [1, 2] (enabled false true s0)) = .next t ∧
      (Instr.dmaRx 2).opcode ∉ [Opcode.dmaTx, .tick, .ringPush, .create] := ⟨_, rfl, by decide⟩

theorem witness_TransmitTransfer :
    (almostFull.engine.life = .live ∧ almostFull.engine.ring.wf ∧ almostFull.engine.bindTx ≠ none ∧ almostFull.engine.txen = true) ∧
      ((latched fullRing).engine.life = .live ∧ (latched fullRing).engine.ring.wf ∧ (latched fullRing).engine.bindTx ≠ none ∧
        (latched fullRing).engine.txen = true) ∧
      (s0.engine.life = .live ∧ s0.engine.ring.wf ∧ s0.engine.bindTx ≠ none ∧ s0.engine.txen = false) ∧
      (enabled true true State.reset).engine.life = .live ∧ (enabled true true State.reset).engine.ring.wf ∧
      (enabled true true State.reset).engine.bindTx = none := by decide

theorem witness_ReceiveTransfer :
    (fullRing.engine.life = .live ∧ fullRing.engine.bindRx ≠ none ∧ fullRing.engine.rxen = true) ∧
      ((enabled false true s0).engine.life = .live ∧ (enabled false true s0).engine.bindRx ≠ none ∧
        (enabled false true s0).engine.rxen = true) ∧
      (s0.engine.life = .live ∧ s0.engine.bindRx ≠ none ∧ s0.engine.rxen = false) ∧
      (enabled true true State.reset).engine.life = .live ∧ (enabled true true State.reset).engine.bindRx = none := by decide

theorem witness_TransfersKeepByteOrder :
    ∃ t u, almostFull.engine.life = .live ∧ almostFull.engine.RingInv ∧ almostFull.engine.bindTx ≠ none ∧ almostFull.engine.txen = true ∧
      exec (.dmaTx [1, 2]) almostFull = .next t ∧ almostFull.engine.bindRx ≠ none ∧ almostFull.engine.rxen = true ∧
      exec (.dmaRx 2) almostFull = .next u := ⟨_, _, by decide, by decide, by decide, by decide, rfl, by decide, by decide, rfl⟩

theorem witness_TickRunsBothHalves :
    (fullRing.engine.life = .live ∧ fullRing.engine.ring.wf ∧ [(1 : Byte), 2, 3, 4].length = Config.frameBytes) ∧
      s0.engine.life = .live ∧ s0.engine.ring.wf := by decide

theorem witness_IdleTickChangesNothing : s0.engine.life = .live ∧ s0.engine.txen = false ∧ s0.engine.rxen = false := by decide

theorem witness_TickNeverSetsBothLatches :
    ∃ t, fullRing.engine.life = .live ∧ fullRing.engine.RingInv ∧ exec (.tick [1, 2, 3, 4]) fullRing = .next t ∧
      fullRing.engine.txen = true ∧ fullRing.engine.rxen = true := ⟨_, by decide, by decide, rfl, by decide, by decide⟩

theorem witness_TickKeepsByteOrder :
    ∃ (g : Frame) (t : State), almostFull.engine.life = .live ∧ almostFull.engine.RingInv ∧ exec (.tick g.toList) almostFull = .next t :=
  ⟨Vector.replicate 4 7, _, by decide, by decide, rfl⟩

theorem witness_ThresholdEventsDoNotRepeat :
    ∃ t o, fullRing.engine.RingInv ∧ exec (.tick [1, 2, 3, 4]) fullRing = .next t ∧ t.trace = fullRing.trace ++ [o] ∧
      fullRing.engine.rxthr = 0 := ⟨_, _, by decide, rfl, rfl, by decide⟩

theorem witness_ThresholdEventsDoNotRepeat_low :
    ∃ t o, s0.engine.RingInv ∧ exec (.tick [1, 2, 3, 4]) s0 = .next t ∧ t.trace = s0.trace ++ [o] ∧
      s0.engine.occ ≤ s0.engine.txthr.toNat ∧ s0.engine.txen = false ∧ s0.engine.rxthr.toNat ≤ s0.engine.occ :=
  ⟨_, _, by decide, rfl, rfl, by decide, by decide, by decide⟩

theorem witness_TicksDrainTheRing :
    (zerosHeld 16384 (enabled true false s0)).engine.life = .live ∧ (zerosHeld 16384 (enabled true false s0)).engine.RingInv ∧
      (zerosHeld 16384 (enabled true false s0)).engine.txen = true ∧ (zerosHeld 16384 (enabled true false s0)).engine.rxen = false ∧
      (zerosHeld 16384 (enabled true false s0)).engine.occ ≤ 4096 * Config.frameBytes := by decide

theorem witness_RateDoesNotAffectStreaming :
    ∃ t, (Instr.dmaTx [1]).opcode ∈ [Opcode.dmaTx, .dmaRx, .tick] ∧ exec (.dmaTx [1]) almostFull = .next t := ⟨_, by decide, rfl⟩

theorem witness_RegisterDma :
    (fullRing.engine.life = .live ∧ fullRing.engine.dmaReg = true) ∧
      ((enabled false true State.reset).engine.life = .live ∧ (enabled false true State.reset).engine.dmaReg = false ∧
        (enabled false true State.reset).engine.rxen = true) ∧
      State.reset.engine.life = .live ∧ State.reset.engine.dmaReg = false ∧ State.reset.engine.txen = false ∧
      State.reset.engine.rxen = false ∧ (some 0 : Option ChanId) ≠ none := by decide

theorem witness_RegisterChannel :
    (fullRing.engine.life = .live ∧ fullRing.engine.txen = true) ∧ s0.engine.life = .live ∧ s0.engine.txen = false ∧ s0.engine.rxen = false := by
  decide

theorem witness_CreateSetsEveryField : State.absent.engine.life = .absent ∧ (inLife .absent fullRing).engine.life = .absent := by decide

theorem witness_ResetRestoresRegistersKeepsBindings : (latched fullRing).engine.life = .live := by decide

theorem witness_TeardownReleasesVoiceAndBindings : (latched fullRing).engine.life = .live := by decide

theorem witness_LifeStateAdmission :
    admits State.absent.engine.life (Instr.rdCs0).opcode = false ∧ admits s0.engine.life (Instr.create).opcode = false ∧
      admits State.absent.engine.life (Instr.create).opcode = true ∧ admits s0.engine.life (Instr.teardown).opcode = true := by decide

theorem witness_FaultedAndGoneAreFinal :
    ((inLife .faulted fullRing).engine.life = .faulted ∨ (inLife .faulted fullRing).engine.life = .gone) ∧
      ((inLife .gone s0).engine.life = .faulted ∨ (inLife .gone s0).engine.life = .gone) := by decide

theorem witness_BindingErrorHasNoOtherEffect :
    ∃ t, exec (.bindDma (some 9) (some 1) (some 2)) fullRing = .next t ∧ t.trace = fullRing.trace ++ [.faulted .alreadyRegistered] :=
  ⟨_, rfl, rfl⟩

theorem witness_StepKeepsEngineInvariant : ∃ t, fullRing.engine.Inv ∧ step (fullRing.withFetchWord 16 0x600) = .next t :=
  ⟨_, by decide, rfl⟩

theorem witness_DevPulseExactlyOnLatchRise :
    ∃ t o, exec (.dmaTx [1]) fullRing = .next t ∧ t.trace = fullRing.trace ++ [o] ∧ t.engine.ovr = true := ⟨_, _, rfl, rfl, rfl⟩

theorem witness_ConditionsMet :
    ∃ t o, exec (.dmaTx [1]) fullRing = .next t ∧ t.trace = fullRing.trace ++ [o] ∧ .overrun ∈ o.conditions ∧
      fullRing.engine.ovr = false ∧ t.engine.ovr = true := ⟨_, _, rfl, rfl, by decide, rfl, rfl⟩

theorem witness_ConditionsMet_underrun :
    ∃ t o, exec (.dmaRx 1) (enabled false true s0) = .next t ∧ t.trace = (enabled false true s0).trace ++ [o] ∧
      .underrun ∈ o.conditions ∧ (enabled false true s0).engine.unr = false ∧ t.engine.unr = true :=
  ⟨_, _, rfl, rfl, by decide, rfl, rfl⟩

theorem witness_ConditionsMet_binding :
    ∃ t o, exec (.bindCh .rx none) s0 = .next t ∧ t.trace = s0.trace ++ [o] ∧ .bindingError ∈ o.conditions :=
  ⟨_, _, rfl, rfl, by decide⟩

theorem witness_ConditionsMet_rate :
    (selecting 7).engine.life = .live ∧ (selecting 7).engine.caddr = 7 ∧ (1 : Word) ∉ Config.rates := by decide

theorem witness_PulseSources :
    ∃ t o, exec (.dmaTx [1]) fullRing = .next t ∧ t.trace = fullRing.trace ++ [o] ∧ o.pulses.txdma = true := ⟨_, _, rfl, rfl, rfl⟩

theorem witness_PulseSources_none :
    ∃ t o, exec (.wrCs0 0) fullRing = .next t ∧ t.trace = fullRing.trace ++ [o] ∧
      (Instr.wrCs0 0).opcode ∉ [Opcode.dmaTx, .dmaRx, .tick] := ⟨_, _, rfl, rfl, by decide⟩

theorem witness_LatchesClearedOnlyByCs0ReadOrReset :
    ∃ t, exec (.wrCs0 0xFFFFFFFF) (latched s0) = .next t ∧ clearsLatches (.wrCs0 0xFFFFFFFF) = false ∧
      (latched s0).engine.ovr = true ∧ (latched s0).engine.unr = true := ⟨_, rfl, by decide, by decide, by decide⟩

theorem witness_PulsesCoalesceBetweenClears :
    ∃ t, (∀ i ∈ [Instr.dmaTx [1], .dmaTx [2]], clearsLatches i = false) ∧ runOps [.dmaTx [1], .dmaTx [2]] fullRing = .next t :=
  ⟨_, by decide, rfl⟩

theorem witness_EnablesChangedOnlyByCs0Write :
    ∃ t, exec .teardown fullRing = .next t ∧ (Instr.teardown).opcode ∉ [Opcode.wrCs0, .reset, .create] := ⟨_, rfl, by decide⟩

theorem witness_ConfigurationChangedOnlyByItsWrites :
    ∃ t, exec (.wrCdata 9) (selecting 6) = .next t ∧ (Instr.wrCdata 9).opcode ∉ [Opcode.reset, .create] ∧
      (Instr.wrCdata 9).opcode ≠ .wrCaddr ∧ (Instr.wrCdata 9).opcode ≠ .wrCs1 ∧ (Instr.wrCdata 9).opcode ≠ .wrCs2 :=
  ⟨_, rfl, by decide, by decide, by decide, by decide⟩

theorem witness_ConfigurationChangedOnlyByItsWrites_codec :
    ∃ t, exec (.wrCaddr 9) (selecting 6) = .next t ∧ (Instr.wrCaddr 9).opcode ∉ [Opcode.reset, .create] ∧
      (Instr.wrCaddr 9).opcode ≠ .wrCdata := ⟨_, rfl, by decide, by decide⟩

theorem witness_BindingsChangedOnlyByRegistration :
    ∃ t, exec .reset fullRing = .next t ∧ (Instr.reset).opcode ∉ [Opcode.bindDma, .bindCh, .create, .teardown] ∧
      (Instr.reset).opcode ∉ [Opcode.bindDma, .create] ∧ (Instr.reset).opcode ∉ [Opcode.create, .teardown] :=
  ⟨_, rfl, by decide, by decide, by decide⟩

theorem witness_RefusalMarkIsKept :
    ∃ t, runOps [.rdCs0, .reset] { s0 with refusalMark := true } = .next t ∧ ({ s0 with refusalMark := true } : State).refusalMark = true :=
  ⟨_, rfl, rfl⟩

theorem witness_OutputsAreNeverRead :
    ∃ t o, ({ s0 with trace := [.refused (.notAdmitted .gone)], refusalMark := true } : State).engine = s0.engine ∧
      exec (.ringPush [1]) s0 = .next t ∧ t.trace = s0.trace ++ [o] := ⟨_, _, rfl, rfl, rfl⟩

theorem witness_InstancesDoNotInterfere : (0 : Nat) ≠ 1 ∧ ([s0, fullRing] : Instances)[1]? = some fullRing := by decide

/-! ### The host clock's fairness (43_streaming.md R120) -/

/-- A teardown, then reads for ever. -/
def stopped : Nat → Instr
  | 0 => .teardown
  | _ + 1 => .rdCs0

/-- A clock that stops at TEARDOWN is fair. -/
theorem test_tickFair_after_teardown : TickFair stopped s0 := by
  have gone : ∀ n, (stateAt stopped s0 (n + 1)).engine.life = .gone := by
    intro n
    induction n with
    | zero => rfl
    | succ n ih => rw [stateAt_succ (exec_not_live (i := .rdCs0) (by decide) (by rw [ih]; decide))]; exact ih
  exact fun n => ⟨n + 1, Nat.le_succ n, .inl (by rw [gone n]; decide)⟩

/-- A clock that never ticks while the device stays Live is not. -/
theorem test_tickFair_needs_ticks : ¬ TickFair (fun _ => .rdCs0) s0 := by
  have live : ∀ n, (stateAt (fun _ => .rdCs0) s0 n).engine.life = .live := by
    intro n
    induction n with
    | zero => rfl
    | succ n ih => rw [stateAt_succ (exec_rdCs0 ih)]; exact ih
  intro fair
  obtain ⟨m, -, h | h⟩ := fair 0
  · exact h (live m)
  · cases h

/-! ### Assembler text (30_encoding.md R76) -/

theorem test_asm_words : Instr.asm (.wrCs1 4) = "wr CS1, 0x00000004" ∧ Instr.asm (.rdCdata) = "rd CDATA" := by decide

theorem test_asm_bytes : Instr.asm (.dmaTx [0xAA, 0x0B]) = "dma.tx [AA 0B]" := by decide

theorem test_asm_bind : Instr.asm (.bindDma none (some 1) (some 2)) = "bind none, 1, 2" ∧ Instr.asm (.dmaRx 6) = "dma.rx 6" := by decide

end Sys2Proof.Tests
end

section
/-! PROOFS. One step, said once (20_memory.md R52, R53): which state it answers, by the oldest presented pair, and that it ends as an
operation ends (00_scope.md R14). -/

namespace Sys2Proof.Machine

/-- However an operation ends, it answers a next state with the same operations presented and one more output. -/
theorem Ends.exists_next {s : State} {r : Result} (h : Ends s r) :
    ∃ t o, r = .next t ∧ t.pending = s.pending ∧ t.trace = s.trace ++ [o] := by
  obtain ⟨e, fx, rfl⟩ | ⟨why, rfl⟩ | ⟨why, rfl⟩ := h
  · exact ⟨_, .done fx, rfl, rfl, rfl⟩
  · exact ⟨_, .faulted why, rfl, rfl, rfl⟩
  · exact ⟨_, .refused why, rfl, rfl, rfl⟩

theorem step_of_pending_nil {s : State} (h : s.pending = []) : step s = .next s := by
  simp [step, stepWith, State.fetch_nil s h]

theorem step_of_decode_ok {s : State} {p : Transaction} {rest : List Transaction} {i : Instr} (h : s.pending = p :: rest)
    (hd : decode p = .ok i) : step s = exec i { s with pending := rest } := by
  simp [step, stepWith, State.fetch_cons s p rest h, hd]

theorem step_of_decode_error {s : State} {p : Transaction} {rest : List Transaction} {why : DecodeError} (h : s.pending = p :: rest)
    (hd : decode p = .error why) : step s = State.refuse { s with pending := rest } (.illegal why) := by
  simp [step, stepWith, State.fetch_cons s p rest h, hd]

/-- A step ends as an operation ends, in the state without the pair it took. -/
theorem step_ends {s : State} {p : Transaction} {rest : List Transaction} (h : s.pending = p :: rest) :
    Ends { s with pending := rest } (step s) := by
  cases hd : decode p with
  | ok i => rw [step_of_decode_ok h hd]; exact exec_ends i _
  | error why => rw [step_of_decode_error h hd]; exact ends_refuse _ _

/-- Settles O8: with nothing presented the step changes nothing; else it takes the oldest pair and ends as an operation ends. -/
theorem everyStepCompletes : Obligations.EveryStepCompletes := by
  intro s
  refine ⟨step_of_pending_nil, fun hne => ?_⟩
  obtain ⟨p, rest, hp⟩ := List.exists_cons_of_ne_nil hne
  obtain ⟨t, o, hstep, hpending, htrace⟩ := (step_ends hp).exists_next
  exact ⟨t, o, hstep, by rw [hpending, hp]; rfl, htrace⟩

end Sys2Proof.Machine
end

section
/-! PROOFS. What an operation does to the engine, said once for every rule about the engine alone; the operations that change
each group of fields (10_state.md R20), as frames of the relation Does. -/

namespace Sys2Proof.Machine

/-- What `exec` leaves of the engine is related to the engine before by every `R` that holds of no change, of the life state set by a
BindingError (60_exceptions.md R160), and of what a performed operation does. -/
theorem exec_engine_rel (R : Engine → Engine → Prop) {i : Instr} {s t : State} (h : exec i s = .next t)
    (unchanged : R s.engine s.engine) (raised : s.engine.life = .live → R s.engine { s.engine with life := .faulted })
    (performed : ∀ e fx, Does s.engine i e fx → R s.engine e) : R s.engine t.engine := by
  obtain ⟨-, hx⟩ | ⟨hlive, -, why, hx⟩ | ⟨-, e, fx, hdoes, hx⟩ := exec_cases i s
  · cases h.symm.trans hx; exact unchanged
  · cases h.symm.trans hx; exact raised hlive
  · cases h.symm.trans hx; exact performed e fx hdoes

/-! ### tick (43_streaming.md R121) -/

/-- A tick keeps whatever does not depend on the ring, its cursors, the full flag and the latches. -/
theorem Engine.tick_keeps {α : Type} (f : Engine → α) (e : Engine) (host : List Byte)
    (hf : ∀ ring wp rp full ovr unr,
      f { e with ring := ring, wp := wp, rp := rp, full := full, ovr := ovr, unr := unr } = f e) :
    f (e.playbackPart.1.capturePart host).1 = f e := by
  obtain ⟨ring, wp, rp, full, ovr, unr, htick⟩ := e.tick_frame host
  rw [htick, hf]

@[simp] theorem Engine.tick_life (e : Engine) (host : List Byte) : (e.playbackPart.1.capturePart host).1.life = e.life :=
  Engine.tick_keeps Engine.life e host fun _ _ _ _ _ _ => rfl
@[simp] theorem Engine.tick_txen (e : Engine) (host : List Byte) : (e.playbackPart.1.capturePart host).1.txen = e.txen :=
  Engine.tick_keeps Engine.txen e host fun _ _ _ _ _ _ => rfl
@[simp] theorem Engine.tick_rxen (e : Engine) (host : List Byte) : (e.playbackPart.1.capturePart host).1.rxen = e.rxen :=
  Engine.tick_keeps Engine.rxen e host fun _ _ _ _ _ _ => rfl
@[simp] theorem Engine.tick_txthr (e : Engine) (host : List Byte) : (e.playbackPart.1.capturePart host).1.txthr = e.txthr :=
  Engine.tick_keeps Engine.txthr e host fun _ _ _ _ _ _ => rfl
@[simp] theorem Engine.tick_rxthr (e : Engine) (host : List Byte) : (e.playbackPart.1.capturePart host).1.rxthr = e.rxthr :=
  Engine.tick_keeps Engine.rxthr e host fun _ _ _ _ _ _ => rfl
@[simp] theorem Engine.tick_caddr (e : Engine) (host : List Byte) : (e.playbackPart.1.capturePart host).1.caddr = e.caddr :=
  Engine.tick_keeps Engine.caddr e host fun _ _ _ _ _ _ => rfl
@[simp] theorem Engine.tick_codec (e : Engine) (host : List Byte) : (e.playbackPart.1.capturePart host).1.codec = e.codec :=
  Engine.tick_keeps Engine.codec e host fun _ _ _ _ _ _ => rfl
@[simp] theorem Engine.tick_rate (e : Engine) (host : List Byte) : (e.playbackPart.1.capturePart host).1.rate = e.rate :=
  Engine.tick_keeps Engine.rate e host fun _ _ _ _ _ _ => rfl
@[simp] theorem Engine.tick_bindTx (e : Engine) (host : List Byte) : (e.playbackPart.1.capturePart host).1.bindTx = e.bindTx :=
  Engine.tick_keeps Engine.bindTx e host fun _ _ _ _ _ _ => rfl
@[simp] theorem Engine.tick_bindRx (e : Engine) (host : List Byte) : (e.playbackPart.1.capturePart host).1.bindRx = e.bindRx :=
  Engine.tick_keeps Engine.bindRx e host fun _ _ _ _ _ _ => rfl
@[simp] theorem Engine.tick_dmaReg (e : Engine) (host : List Byte) : (e.playbackPart.1.capturePart host).1.dmaReg = e.dmaReg :=
  Engine.tick_keeps Engine.dmaReg e host fun _ _ _ _ _ _ => rfl
@[simp] theorem Engine.tick_voice (e : Engine) (host : List Byte) : (e.playbackPart.1.capturePart host).1.voice = e.voice :=
  Engine.tick_keeps Engine.voice e host fun _ _ _ _ _ _ => rfl

/-- A tick clears no latch (10_state.md R35). -/
theorem Engine.tick_latches_kept (e : Engine) (host : List Byte) :
    (e.ovr = true → (e.playbackPart.1.capturePart host).1.ovr = true) ∧
      (e.unr = true → (e.playbackPart.1.capturePart host).1.unr = true) := by
  obtain ⟨_, _, _, _, _, _, htick⟩ := e.tick_frame host
  rw [htick]
  exact ⟨fun h => by simp [h], fun h => by simp [h]⟩

/-! ### Performed operations -/

section Frames
variable {e e' : Engine} {i : Instr} {fx : Effects}

theorem Does.ring_eq (h : Does e i e' fx) (hi : i.opcode ∉ [Opcode.dmaTx, .tick, .ringPush, .create]) : e'.ring = e.ring := by
  cases h
  case transmit | tick | ringPush | create => simp [Instr.opcode] at hi
  all_goals simp

/-- A latch that is set stays set: a transfer or a tick only adds to it (10_state.md R35). -/
theorem Does.latches_kept (h : Does e i e' fx) (hi : clearsLatches i = false) :
    (e.ovr = true → e'.ovr = true) ∧ (e.unr = true → e'.unr = true) := by
  cases h
  case rdCs0 | reset | create => simp [clearsLatches] at hi
  case tick host => exact e.tick_latches_kept host
  case transmit | receive => exact ⟨fun h => by simp [h], fun h => by simp [h]⟩
  all_goals simp

theorem Does.enables_eq (h : Does e i e' fx) (hi : i.opcode ∉ [Opcode.wrCs0, .reset, .create]) :
    e'.txen = e.txen ∧ e'.rxen = e.rxen := by
  cases h
  case wrCs0 | reset | create => simp [Instr.opcode] at hi
  all_goals simp

theorem Does.caddr_eq (h : Does e i e' fx) (hi : i.opcode ∉ [Opcode.wrCaddr, .reset, .create]) : e'.caddr = e.caddr := by
  cases h
  case wrCaddr | reset | create => simp [Instr.opcode] at hi
  all_goals simp

theorem Does.codec_eq (h : Does e i e' fx) (hi : i.opcode ∉ [Opcode.wrCdata, .reset, .create]) :
    e'.codec = e.codec ∧ e'.rate = e.rate := by
  cases h
  case wrCdata | reset | create => simp [Instr.opcode] at hi
  all_goals simp

theorem Does.txthr_eq (h : Does e i e' fx) (hi : i.opcode ∉ [Opcode.wrCs1, .reset, .create]) : e'.txthr = e.txthr := by
  cases h
  case wrCs1 | reset | create => simp [Instr.opcode] at hi
  all_goals simp

theorem Does.rxthr_eq (h : Does e i e' fx) (hi : i.opcode ∉ [Opcode.wrCs2, .reset, .create]) : e'.rxthr = e.rxthr := by
  cases h
  case wrCs2 | reset | create => simp [Instr.opcode] at hi
  all_goals simp

theorem Does.bindings_eq (h : Does e i e' fx) (hi : i.opcode ∉ [Opcode.bindDma, .bindCh, .create, .teardown]) :
    e'.bindTx = e.bindTx ∧ e'.bindRx = e.bindRx := by
  cases h
  case bindDma | bindCh | create | teardown => simp [Instr.opcode] at hi
  all_goals simp

theorem Does.dmaReg_eq (h : Does e i e' fx) (hi : i.opcode ∉ [Opcode.bindDma, .create]) : e'.dmaReg = e.dmaReg := by
  cases h
  case bindDma | create => simp [Instr.opcode] at hi
  all_goals simp

/-- Life state and voice change together (10_state.md R19, R38). -/
theorem Does.life_voice_eq (h : Does e i e' fx) (hi : i.opcode ∉ [Opcode.create, .teardown]) :
    e'.life = e.life ∧ e'.voice = e.voice := by
  cases h
  case create | teardown => simp [Instr.opcode] at hi
  all_goals simp

end Frames

end Sys2Proof.Machine
end

section
/-! PROOFS. The invariants of the engine (10_state.md R41) and the occupancy they bound (R26): they hold at the start, and every
step keeps them. -/

namespace Sys2Proof.Machine

/-! ### The occupancy -/

theorem Engine.occ_of_full {e : Engine} (h : e.full = true) : e.occ = Config.ringCapacity := if_pos h

/-- The occupancy of a ring that is not full, in natural numbers (10_state.md R26). -/
theorem Engine.occ_of_not_full {e : Engine} (h : e.full = false) (hr : e.rp < Config.ringCapacity) :
    e.occ = (e.wp + Config.ringCapacity - e.rp) % Config.ringCapacity := by
  rw [Engine.occ, if_neg (by simp [h])]
  simp only [Config.ringCapacity] at hr ⊢
  omega

/-- Settles O24: the two cases of the occupancy, and the bounds of `Engine.occ_spec`. -/
theorem occupancyBounds : Obligations.OccupancyBounds := by
  intro e hinv
  obtain ⟨hle, hwp, hfull⟩ := Engine.occ_spec hinv
  obtain ⟨-, hr, -⟩ := hinv
  exact ⟨Engine.occ_of_full, fun h => Engine.occ_of_not_full h hr, hle, hfull, rfl, hwp⟩

/-! ### The start -/

theorem Engine.created_ringInv : Engine.created.RingInv := ⟨by decide, by decide, fun _ => rfl, Memory.wf_nil⟩

theorem rateReset_mem_rates : Config.rateReset ∈ Config.rates := by decide

theorem Engine.created_inv : Engine.created.Inv := ⟨Engine.created_ringInv, rateReset_mem_rates, by decide, by decide⟩

theorem State.absent_inv : State.absent.engine.Inv := ⟨Engine.created_ringInv, rateReset_mem_rates, by decide, by decide⟩

/-- Settles O49. -/
theorem engineInvariantAtStart : Obligations.EngineInvariantAtStart := ⟨Engine.created_inv, State.absent_inv⟩

/-! ### What keeps the ring's invariants and the rate supported -/

theorem Engine.RingInv.ring_wf {e : Engine} (h : e.RingInv) : e.ring.wf := h.2.2.2

theorem Engine.writeCs0_ringInv {e : Engine} (h : e.RingInv) (v : Word) : (e.writeCs0 v).RingInv := by
  unfold Engine.writeCs0
  simp only
  split
  · exact (Engine.flush_spec (e := { e with txen := txenField v, rxen := rxenField v }) h.ring_wf).1
  · exact h

theorem nearerRate_eq_or (v b r : Word) : nearerRate v b r = b ∨ nearerRate v b r = r := by
  unfold nearerRate
  split
  · exact .inr rfl
  · split
    · exact .inr rfl
    · exact .inl rfl

/-- The clamped rate is supported: each step of the fold keeps the best so far or takes a rate of the list (43_streaming.md R118). -/
theorem clampRate_mem_rates (v : Word) : clampRate v ∈ Config.rates := by
  refine List.foldlRecOn (motive := (· ∈ Config.rates)) Config.rates (nearerRate v) (by decide) fun b hb r hr => ?_
  obtain h | h := nearerRate_eq_or v b r <;> rw [h]
  · exact hb
  · exact hr

theorem Engine.setCodecData_rate_mem {e : Engine} (h : e.rate ∈ Config.rates) (v : Word) : (e.setCodecData v).rate ∈ Config.rates := by
  unfold Engine.setCodecData
  split
  · exact h
  · exact clampRate_mem_rates v

/-! ### Every operation keeps the invariants -/

section Performed
variable {e e' : Engine} {i : Instr} {fx : Effects}

theorem Does.ringInv (h : Does e i e' fx) (hinv : e.RingInv) : e'.RingInv := by
  cases h
  case wrCs0 v => exact Engine.writeCs0_ringInv hinv v
  case wrCdata v => simpa [Engine.RingInv] using hinv
  case transmit | ringPush => exact (Engine.push_spec hinv _).1
  case receive | ringPop => exact (Engine.pop_spec hinv _).1
  case tick host => exact Engine.tick_ringInv hinv host
  case bindCh dir ch _ => simpa [Engine.RingInv] using hinv
  case create => exact Engine.created_ringInv
  case reset => exact (Engine.flush_spec hinv.ring_wf).1
  all_goals exact hinv

theorem Does.rate_mem (h : Does e i e' fx) (hrate : e.rate ∈ Config.rates) : e'.rate ∈ Config.rates := by
  by_cases hi : i.opcode ∈ [Opcode.wrCdata, .reset, .create]
  · cases h
    case wrCdata v => exact Engine.setCodecData_rate_mem hrate v
    case reset | create => exact rateReset_mem_rates
    all_goals simp [Instr.opcode] at hi
  · rwa [(h.codec_eq hi).2]

theorem Does.voiceInv (h : Does e i e' fx) (hvoice : e.VoiceInv) : e'.VoiceInv := by
  by_cases hi : i.opcode ∈ [Opcode.create, .teardown]
  · cases h
    case create => decide
    case teardown => simp [Engine.VoiceInv]
    all_goals simp [Instr.opcode] at hi
  · obtain ⟨hlife, hv⟩ := h.life_voice_eq hi
    rwa [Engine.VoiceInv, hlife, hv]

theorem Does.bindingInv (h : Does e i e' fx) (hbind : e.BindingInv) : e'.BindingInv := by
  by_cases hi : i.opcode ∈ [Opcode.bindDma, .bindCh, .create, .teardown]
  · cases h
    case bindDma | create | teardown => simp [Engine.BindingInv, Engine.created]
    case bindCh dir ch _ =>
      intro hreg hgone
      obtain ⟨htx, hrx⟩ := hbind (by simpa using hreg) (by simpa using hgone)
      cases dir
      · exact ⟨rfl, hrx⟩
      · exact ⟨htx, rfl⟩
    all_goals simp [Instr.opcode] at hi
  · obtain ⟨htx, hrx⟩ := h.bindings_eq hi
    simp only [List.mem_cons, List.not_mem_nil, not_or, or_false] at hi
    obtain ⟨hdma, -, hcreate, hteardown⟩ := hi
    have hreg : e'.dmaReg = e.dmaReg := h.dmaReg_eq (by simp [hdma, hcreate])
    have hlife : e'.life = e.life := (h.life_voice_eq (by simp [hcreate, hteardown])).1
    rwa [Engine.BindingInv, hreg, hlife, htx, hrx]

theorem Does.inv (h : Does e i e' fx) (hinv : e.Inv) : e'.Inv := by
  obtain ⟨hring, hrate, hvoice, hbind⟩ := hinv
  exact ⟨h.ringInv hring, h.rate_mem hrate, h.voiceInv hvoice, h.bindingInv hbind⟩

end Performed

/-- A BindingError is raised in Live only, where the voice is open and the engine is not Gone, so Faulted keeps both
(44_binding_lifecycle.md R133, 60_exceptions.md R160). -/
theorem Engine.raised_inv {e : Engine} (hlive : e.life = .live) (hinv : e.Inv) : Engine.Inv { e with life := .faulted } := by
  obtain ⟨hring, hrate, hvoice, hbind⟩ := hinv
  exact ⟨hring, hrate, iff_of_true (hvoice.mpr (.inl hlive)) (.inr rfl), fun hreg _ => hbind hreg (by simp [hlive])⟩

theorem exec_keeps_inv {i : Instr} {s t : State} (h : exec i s = .next t) (hinv : s.engine.Inv) : t.engine.Inv :=
  exec_engine_rel (fun e e' => e.Inv → e'.Inv) h id Engine.raised_inv (fun _ _ hdoes => hdoes.inv) hinv

/-- Settles O48: with nothing presented and for a pair that names no operation the engine is unchanged; an operation keeps the
invariants. -/
theorem stepKeepsEngineInvariant : Obligations.StepKeepsEngineInvariant := by
  intro s t hinv hstep
  cases hp : s.pending with
  | nil => cases hstep.symm.trans (step_of_pending_nil hp); exact hinv
  | cons p rest =>
    cases hd : decode p with
    | error why => cases hstep.symm.trans (step_of_decode_error hp hd); exact hinv
    | ok i => exact exec_keeps_inv ((step_of_decode_ok hp hd).symm.trans hstep) hinv

end Sys2Proof.Machine
end

section
/-! PROOFS. Which operations change which fields (10_state.md R20): the frames of every performed operation, lifted to exec, which
besides only sets the life state. -/

namespace Sys2Proof.Machine

/-- Settles O28: the operations other than the four write no byte. -/
theorem ringBytesChangedOnlyByPushes : Obligations.RingBytesChangedOnlyByPushes := by
  intro i s t h hi x
  have hring : t.engine.ring = s.engine.ring :=
    exec_engine_rel (fun e e' => e'.ring = e.ring) h rfl (fun _ => rfl) fun _ _ hdoes => hdoes.ring_eq hi
  rw [hring]

/-- Settles O53. -/
theorem latchesClearedOnlyByCs0ReadOrReset : Obligations.LatchesClearedOnlyByCs0ReadOrReset := fun _ _ _ h hi =>
  exec_engine_rel (fun e e' => (e.ovr = true → e'.ovr = true) ∧ (e.unr = true → e'.unr = true)) h
    ⟨id, id⟩ (fun _ => ⟨id, id⟩) fun _ _ hdoes => hdoes.latches_kept hi

/-- Settles O55. -/
theorem enablesChangedOnlyByCs0Write : Obligations.EnablesChangedOnlyByCs0Write := fun _ _ _ h hi =>
  exec_engine_rel (fun e e' => e'.txen = e.txen ∧ e'.rxen = e.rxen) h
    ⟨rfl, rfl⟩ (fun _ => ⟨rfl, rfl⟩) fun _ _ hdoes => hdoes.enables_eq hi

/-- Settles O56: four frames, one for each write. -/
theorem configurationChangedOnlyByItsWrites : Obligations.ConfigurationChangedOnlyByItsWrites := by
  intro i s t h hi
  have other {op : Opcode} (hop : i.opcode ≠ op) : i.opcode ∉ [op, .reset, .create] := List.not_mem_cons_of_ne_of_not_mem hop hi
  refine ⟨fun hop => ?_, fun hop => ?_, fun hop => ?_, fun hop => ?_⟩
  · exact exec_engine_rel (fun e e' => e'.caddr = e.caddr) h rfl (fun _ => rfl) fun _ _ hdoes => hdoes.caddr_eq (other hop)
  · exact exec_engine_rel (fun e e' => e'.codec = e.codec ∧ e'.rate = e.rate) h ⟨rfl, rfl⟩ (fun _ => ⟨rfl, rfl⟩)
      fun _ _ hdoes => hdoes.codec_eq (other hop)
  · exact exec_engine_rel (fun e e' => e'.txthr = e.txthr) h rfl (fun _ => rfl) fun _ _ hdoes => hdoes.txthr_eq (other hop)
  · exact exec_engine_rel (fun e e' => e'.rxthr = e.rxthr) h rfl (fun _ => rfl) fun _ _ hdoes => hdoes.rxthr_eq (other hop)

/-- Settles O57: three frames, of the bindings, the registration flag and the voice. -/
theorem bindingsChangedOnlyByRegistration : Obligations.BindingsChangedOnlyByRegistration := by
  intro i s t h
  refine ⟨fun hi => ?_, fun hi => ?_, fun hi => ?_⟩
  · exact exec_engine_rel (fun e e' => e'.bindTx = e.bindTx ∧ e'.bindRx = e.bindRx) h ⟨rfl, rfl⟩ (fun _ => ⟨rfl, rfl⟩)
      fun _ _ hdoes => hdoes.bindings_eq hi
  · exact exec_engine_rel (fun e e' => e'.dmaReg = e.dmaReg) h rfl (fun _ => rfl) fun _ _ hdoes => hdoes.dmaReg_eq hi
  · exact exec_engine_rel (fun e e' => e'.voice = e.voice) h rfl (fun _ => rfl) fun _ _ hdoes => (hdoes.life_voice_eq hi).2

/-- Settles O42: CREATE leaves the engine of `State.reset`; the CS0 read clears latches that are clear already, and the other five
reads change nothing. -/
theorem registersReadAfterCreation : Obligations.RegistersReadAfterCreation :=
  ⟨⟨_, exec_create rfl, rfl⟩, _, rfl, by decide, rfl⟩

end Sys2Proof.Machine
end

section
/-! PROOFS. What an operation does depends on the engine alone (10_state.md R42): from two states with one engine it ends in the
same way. -/

namespace Sys2Proof.Machine

/-- Two results end an operation alike from `s` and from `s'`: with the same engine and the same one output, and with the presented
operations of each as they were. -/
def EndAlike (s s' : State) (r r' : Result) : Prop :=
  ∃ e o m m', r = .next { s with engine := e, refusalMark := m, trace := s.trace ++ [o] } ∧
    r' = .next { s' with engine := e, refusalMark := m', trace := s'.trace ++ [o] }

section EndAlike
variable {s s' : State} {r r' q q' : Result}

theorem endAlike_complete (s s' : State) (e : Engine) (fx : Effects) : EndAlike s s' (s.complete e fx) (s'.complete e fx) :=
  ⟨e, .done fx, _, _, rfl, rfl⟩

theorem endAlike_raise (he : s'.engine = s.engine) (why : Fault) : EndAlike s s' (s.raise why) (s'.raise why) :=
  ⟨_, .faulted why, _, _, rfl, by rw [State.raise, he]⟩

theorem endAlike_refuse (he : s'.engine = s.engine) (why : Refusal) : EndAlike s s' (s.refuse why) (s'.refuse why) :=
  ⟨s.engine, .refused why, true, true, rfl, by rw [State.refuse, ← he]⟩

theorem endAlike_ite {p : Prop} [Decidable p] (h : EndAlike s s' r r') (h' : EndAlike s s' q q') :
    EndAlike s s' (if p then r else q) (if p then r' else q') := by
  split
  · exact h
  · exact h'

theorem endAlike_whenLive (he : s'.engine = s.engine) (h : EndAlike s s' r r') : EndAlike s s' (s.whenLive r) (s'.whenLive r') := by
  rw [State.whenLive, State.whenLive, he]
  exact endAlike_ite h (endAlike_refuse he _)

theorem endAlike_whenAbsent (he : s'.engine = s.engine) (h : EndAlike s s' r r') :
    EndAlike s s' (s.whenAbsent r) (s'.whenAbsent r') := by
  rw [State.whenAbsent, State.whenAbsent, he]
  exact endAlike_ite h (endAlike_refuse he _)

theorem endAlike_whenBound (he : s'.engine = s.engine) (dir : Dir) (h : EndAlike s s' r r') :
    EndAlike s s' (s.whenBound dir r) (s'.whenBound dir r') := by
  by_cases hb : s.engine.binding dir = none
  · rw [State.whenBound_unbound hb, State.whenBound_unbound (he ▸ hb)]
    exact endAlike_raise he _
  · rw [State.whenBound_bound hb, State.whenBound_bound (he ▸ hb)]
    exact h

end EndAlike

theorem exec_endAlike (i : Instr) {s s' : State} (he : s'.engine = s.engine) : EndAlike s s' (exec i s) (exec i s') := by
  obtain ⟨engine, mark, pending, trace⟩ := s'
  subst he
  have he : State.engine ⟨s.engine, mark, pending, trace⟩ = s.engine := rfl
  cases i
  case create => exact endAlike_whenAbsent he (endAlike_complete _ _ _ _)
  case dmaTx data =>
    exact endAlike_whenLive he (endAlike_whenBound he _ (endAlike_ite (endAlike_complete _ _ _ _) (endAlike_complete _ _ _ _)))
  case dmaRx n =>
    exact endAlike_whenLive he (endAlike_whenBound he _ (endAlike_ite (endAlike_complete _ _ _ _) (endAlike_complete _ _ _ _)))
  case bindDma mgr tx rx =>
    refine endAlike_whenLive he ?_
    split
    · exact endAlike_ite (endAlike_raise he _) (endAlike_ite (endAlike_raise he _) (endAlike_complete _ _ _ _))
    · exact endAlike_raise he _
  case bindCh dir ch =>
    refine endAlike_whenLive he ?_
    cases ch with
    | none => exact endAlike_raise he _
    | some ch => exact endAlike_ite (endAlike_raise he _) (endAlike_complete _ _ _ _)
  all_goals exact endAlike_whenLive he (endAlike_complete _ _ _ _)

/-- Settles O59: the operation ends alike from both states, and the output of the one is the last of its trace. -/
theorem outputsAreNeverRead : Obligations.OutputsAreNeverRead := by
  intro i s t s' o he h htrace
  obtain ⟨e, o', m, m', hs, hs'⟩ := exec_endAlike i he
  cases h.symm.trans hs
  obtain rfl : o' = o := by simpa using htrace
  exact ⟨_, hs', rfl, rfl, rfl⟩

end Sys2Proof.Machine
end

section
/-! PROOFS. The register window (20_memory.md R46 to R55) and its accesses: an access of another width than 32 bits is refused at
every register's offset, a register write done twice leaves what the first one left, and a step performs the oldest presented pair. -/

namespace Sys2Proof.Machine

/-! ### The access width (20_memory.md R51, 30_encoding.md R67) -/

/-- At a register's offset, keys of classes 0 and 1 name an operation of their own class (30_encoding.md R65, R66). -/
theorem decodeKey_registerOffset_cls : ∀ offset ∈ ([0x00, 0x04, 0x08, 0x0C, 0x10, 0x14] : List (BitVec 8)),
    (decodeKey (Key.make 0 offset)).map Opcode.cls = some 0 ∧ (decodeKey (Key.make 1 offset)).map Opcode.cls = some 1 := by
  decide

theorem decodeRead_width_ne {width : Nat} (hw : width ≠ Config.registerWidth) (i : Instr) (key : Key) :
    decodeRead i key (.read width) = .error (.accessWidth width) := if_neg hw

theorem decodeWrite_width_ne {width : Nat} (hw : width ≠ Config.registerWidth) (f : Word → Instr) (key : Key) (v : Word) :
    decodeWrite f key (.write width v) = .error (.accessWidth width) := if_neg hw

theorem assemble_read_width_ne {op : Opcode} {width : Nat} (hop : op.cls = 0) (hw : width ≠ Config.registerWidth) (key : Key) :
    assemble op key (.read width) = .error (.accessWidth width) := by
  cases op
  case rdCs0 | rdCs1 | rdCs2 | rdCs3 | rdCaddr | rdCdata => exact decodeRead_width_ne hw _ key
  all_goals exact absurd hop (by decide)

theorem assemble_write_width_ne {op : Opcode} {width : Nat} (hop : op.cls = 1) (hw : width ≠ Config.registerWidth) (key : Key)
    (v : Word) : assemble op key (.write width v) = .error (.accessWidth width) := by
  cases op
  case wrCs0 | wrCs1 | wrCs2 | wrCs3 | wrCaddr | wrCdata => exact decodeWrite_width_ne hw _ key v
  all_goals exact absurd hop (by decide)

/-- A key in the operation map is decoded by its operation's own form. -/
theorem decode_of_decodeKey {t : Transaction} {op : Opcode} (h : decodeKey t.key = some op) :
    decode t = assemble op t.key t.operands := by
  simp [decode, h]

/-- Settles O3: the key is a register operation of the access's own class, so the width decides. -/
theorem registerWidthIsThirtyTwo : Obligations.RegisterWidthIsThirtyTwo := by
  intro width offset v hw hoffset
  obtain ⟨hread, hwrite⟩ := decodeKey_registerOffset_cls offset hoffset
  obtain ⟨rd, hrd, hrdCls⟩ := Option.map_eq_some_iff.mp hread
  obtain ⟨wr, hwr, hwrCls⟩ := Option.map_eq_some_iff.mp hwrite
  exact ⟨(decode_of_decodeKey (t := .busRead width offset) hrd).trans (assemble_read_width_ne hrdCls hw _),
    (decode_of_decodeKey (t := .busWrite width offset v) hwr).trans (assemble_write_width_ne hwrCls hw _ v)⟩

/-! ### Register writes done twice (20_memory.md R55) -/

/-- Enables written as they stand rise nowhere, so nothing is flushed (40_register_access.md R86). -/
theorem Engine.writeCs0_of_enables_eq {e : Engine} {v : Word} (htx : e.txen = txenField v) (hrx : e.rxen = rxenField v) :
    e.writeCs0 v = e := by
  simp [Engine.writeCs0, ← htx, ← hrx]

@[simp] theorem Engine.writeCs0_writeCs0 (e : Engine) (v : Word) : (e.writeCs0 v).writeCs0 v = e.writeCs0 v :=
  Engine.writeCs0_of_enables_eq (e.writeCs0_txen v) (e.writeCs0_rxen v)

/-- The codec address selects a stored register or the FORMAT register (10_state.md R28 to R30). -/
theorem Engine.caddr_stored_or_format (e : Engine) : e.caddr.toNat < Config.storedCodecRegisters ∨ e.caddr = 7 := by
  have hlt : e.caddr.toNat < 8 := e.caddr.isLt
  refine or_iff_not_imp_left.mpr fun h => BitVec.eq_of_toNat_eq ?_
  change ¬ e.caddr.toNat < 7 at h
  change e.caddr.toNat = 7
  omega

/-- Both writes select the same register, and the value stored there does not depend on the one it replaces (40_register_access.md R91). -/
@[simp] theorem Engine.setCodecData_setCodecData (e : Engine) (v : Word) : (e.setCodecData v).setCodecData v = e.setCodecData v := by
  obtain h | h := e.caddr_stored_or_format
  · rw [Engine.setCodecData_stored h, Engine.setCodecData_stored (by exact h), Vector.set_set]
  · rw [Engine.setCodecData_format h, Engine.setCodecData_format (by exact h)]

/-- An operation that Live admits, that keeps the life state and whose effect on the engine is idempotent leaves, done twice, the
engine the first time left. -/
theorem exec_twice_engine {i : Instr} (f : Engine → Engine)
    (hexec : ∀ {s : State}, s.engine.life = .live → ∃ fx, exec i s = s.complete (f s.engine) fx)
    (hlife : ∀ e, (f e).life = e.life) (hidem : ∀ e, f (f e) = f e) {s : State} (h : s.engine.life = .live) :
    ∃ t u, exec i s = .next t ∧ exec i t = .next u ∧ u.engine = t.engine := by
  obtain ⟨fx, hfirst⟩ := hexec h
  obtain ⟨fx', hsecond⟩ :=
    hexec (s := { s with engine := f s.engine, trace := s.trace ++ [.done fx] }) ((hlife s.engine).trans h)
  exact ⟨_, _, hfirst, hsecond, hidem s.engine⟩

/-- Settles O21: each write is idempotent on the engine; a codec write's conditions stand in its output only. -/
theorem registerWritesIdempotent : Obligations.RegisterWritesIdempotent := by
  intro s v h i hi
  simp only [List.mem_cons, List.not_mem_nil, or_false] at hi
  obtain rfl | rfl | rfl | rfl | rfl | rfl := hi
  · exact exec_twice_engine (·.writeCs0 v) (fun h => ⟨_, exec_wrCs0 h v⟩) (·.writeCs0_life v) (·.writeCs0_writeCs0 v) h
  · exact exec_twice_engine ({ · with txthr := thresholdField v }) (fun h => ⟨_, exec_wrCs1 h v⟩) (fun _ => rfl) (fun _ => rfl) h
  · exact exec_twice_engine ({ · with rxthr := thresholdField v }) (fun h => ⟨_, exec_wrCs2 h v⟩) (fun _ => rfl) (fun _ => rfl) h
  · exact exec_twice_engine id (fun h => ⟨_, exec_wrCs3 h v⟩) (fun _ => rfl) (fun _ => rfl) h
  · exact exec_twice_engine ({ · with caddr := codecAddressField v }) (fun h => ⟨_, exec_wrCaddr h v⟩) (fun _ => rfl)
      (fun _ => rfl) h
  · exact exec_twice_engine (·.setCodecData v) (fun h => ⟨_, exec_wrCdata h v⟩) (·.setCodecData_life v)
      (·.setCodecData_setCodecData v) h

/-! ### One step (20_memory.md R52) -/

/-- Settles O6. -/
theorem stepPerformsOldestPresented : Obligations.StepPerformsOldestPresented := fun _ _ _ _ => step_of_decode_ok

end Sys2Proof.Machine
end

section
/-! PROOFS. The operation map (30_encoding.md R63 to R73): a key names an operation exactly when it is that operation's key, and a
presented pair decodes exactly when it is an operation's own pair; what decodes, what is reserved and what is refused follow. -/

namespace Sys2Proof.Machine

/-! ### Keys (30_encoding.md R65, R66) -/

@[simp] theorem Key.cls_append (cls : BitVec 3) (sel : BitVec 8) : Key.cls (cls ++ sel) = cls :=
  BitVec.extractLsb'_append_eq_left

@[simp] theorem Key.selector_append (cls : BitVec 3) (sel : BitVec 8) : Key.selector (cls ++ sel) = sel :=
  BitVec.extractLsb'_append_eq_right

/-- The class and the selector are all of a key (30_encoding.md R65). -/
theorem Key.make_cls_selector (k : Key) : Key.make k.cls k.selector = k :=
  BitVec.extractLsb'_append_extractLsb'

/-- The registers of the window are those at the offsets of 20_memory.md R46. -/
theorem eq_registerOffset_of_registerAt {offset : BitVec 8} {n : Nat} (h : registerAt offset = some n) : offset = registerOffset n := by
  unfold registerAt at h
  split at h
  case isTrue hreg =>
    obtain ⟨-, haligned⟩ := hreg
    cases h
    rw [registerOffset, Nat.div_mul_cancel (Nat.dvd_of_mod_eq_zero haligned), BitVec.ofNat_toNat, BitVec.setWidth_eq]
  case isFalse => cases h

theorem cls_selector_of_readOfRegister {n : Nat} {op : Opcode} (h : readOfRegister n = some op) :
    op.cls = 0 ∧ op.selector = registerOffset n := by
  unfold readOfRegister at h
  split at h <;> cases h <;> exact ⟨rfl, rfl⟩

theorem cls_selector_of_writeOfRegister {n : Nat} {op : Opcode} (h : writeOfRegister n = some op) :
    op.cls = 1 ∧ op.selector = registerOffset n := by
  unfold writeOfRegister at h
  split at h <;> cases h <;> exact ⟨rfl, rfl⟩

theorem cls_selector_of_readAtOffset {offset : BitVec 8} {op : Opcode} (h : readAtOffset offset = some op) :
    op.cls = 0 ∧ op.selector = offset := by
  obtain ⟨n, hn, hop⟩ := Option.bind_eq_some_iff.mp h
  rw [eq_registerOffset_of_registerAt hn]
  exact cls_selector_of_readOfRegister hop

theorem cls_selector_of_writeAtOffset {offset : BitVec 8} {op : Opcode} (h : writeAtOffset offset = some op) :
    op.cls = 1 ∧ op.selector = offset := by
  obtain ⟨n, hn, hop⟩ := Option.bind_eq_some_iff.mp h
  rw [eq_registerOffset_of_registerAt hn]
  exact cls_selector_of_writeOfRegister hop

/-- A key names an operation only as its row of the operation map says (30_encoding.md R66). -/
theorem cls_selector_of_decodeKey {k : Key} {op : Opcode} (h : decodeKey k = some op) : op.cls = k.cls ∧ op.selector = k.selector := by
  unfold decodeKey at h
  split at h
  case h_1 hcls =>
    obtain ⟨hc, hs⟩ := cls_selector_of_readAtOffset h
    exact ⟨hc.trans (BitVec.eq_of_toNat_eq hcls.symm), hs⟩
  case h_2 hcls =>
    obtain ⟨hc, hs⟩ := cls_selector_of_writeAtOffset h
    exact ⟨hc.trans (BitVec.eq_of_toNat_eq hcls.symm), hs⟩
  case h_13 => cases h
  all_goals
    rename_i hcls hsel
    cases h
    exact ⟨BitVec.eq_of_toNat_eq hcls.symm, BitVec.eq_of_toNat_eq hsel.symm⟩

/-- The operation map, both ways: a key names an operation exactly when it is the operation's key (30_encoding.md R66). -/
theorem decodeKey_eq_some_iff {k : Key} {op : Opcode} : decodeKey k = some op ↔ op.key = k := by
  constructor
  · intro h
    obtain ⟨hcls, hsel⟩ := cls_selector_of_decodeKey h
    rw [Opcode.key, hcls, hsel, Key.make_cls_selector]
  · rintro rfl
    exact (Laws.Keys.key_reads_back op).1

/-! ### The operand forms (30_encoding.md R64, R67 to R73) -/

section Forms
variable {i j : Instr} {op : Opcode} {k key : Key} {o : Operands}

theorem decodeRead_eq_ok_iff : decodeRead i key o = .ok j ↔ i = j ∧ o = .read Config.registerWidth := by
  fun_cases decodeRead <;> simp_all

theorem decodeWrite_eq_ok_iff {f : Word → Instr} :
    decodeWrite f key o = .ok j ↔ ∃ v, f v = j ∧ o = .write Config.registerWidth v := by
  fun_cases decodeWrite <;> simp_all

theorem decodeBytes_eq_ok_iff {f : List Byte → Instr} : decodeBytes f key o = .ok j ↔ ∃ data, f data = j ∧ o = .bytes data := by
  fun_cases decodeBytes <;> simp_all

theorem decodeCount_eq_ok_iff {f : Nat → Instr} : decodeCount f key o = .ok j ↔ ∃ n, f n = j ∧ o = .count n := by
  fun_cases decodeCount <;> simp_all

theorem decodeTick_eq_ok_iff :
    decodeTick key o = .ok j ↔ ∃ host, .tick host = j ∧ o = .hostFrame host ∧ host.length = Config.frameBytes := by
  fun_cases decodeTick <;> simp_all

theorem decodeBindDma_eq_ok_iff :
    decodeBindDma key o = .ok j ↔ ∃ mgr tx rx, .bindDma mgr tx rx = j ∧ o = .channels mgr tx rx := by
  fun_cases decodeBindDma <;> simp_all

theorem decodeBindCh_eq_ok_iff : decodeBindCh key o = .ok j ↔ ∃ dir ch, .bindCh dir ch = j ∧ o = .channel dir ch := by
  fun_cases decodeBindCh <;> simp_all

theorem decodeLife_eq_ok_iff : decodeLife i key o = .ok j ↔ i = j ∧ o = .nothing := by
  fun_cases decodeLife <;> simp_all

/-- Operands complete an opcode to an operation exactly when they are that operation's own and it is well formed (30_encoding.md R64, R67
to R73). -/
theorem assemble_eq_ok_iff : assemble op key o = .ok i ↔ i.opcode = op ∧ i.operands = o ∧ i.WellFormed := by
  constructor
  · intro h
    cases op
    case rdCs0 | rdCs1 | rdCs2 | rdCs3 | rdCaddr | rdCdata =>
      obtain ⟨rfl, rfl⟩ := decodeRead_eq_ok_iff.mp h
      exact ⟨rfl, rfl, trivial⟩
    case wrCs0 | wrCs1 | wrCs2 | wrCs3 | wrCaddr | wrCdata =>
      obtain ⟨v, rfl, rfl⟩ := decodeWrite_eq_ok_iff.mp h
      exact ⟨rfl, rfl, trivial⟩
    case dmaTx | ringPush =>
      obtain ⟨data, rfl, rfl⟩ := decodeBytes_eq_ok_iff.mp h
      exact ⟨rfl, rfl, trivial⟩
    case dmaRx | ringPop =>
      obtain ⟨n, rfl, rfl⟩ := decodeCount_eq_ok_iff.mp h
      exact ⟨rfl, rfl, trivial⟩
    case tick =>
      obtain ⟨host, rfl, rfl, hframe⟩ := decodeTick_eq_ok_iff.mp h
      exact ⟨rfl, rfl, hframe⟩
    case bindDma =>
      obtain ⟨mgr, tx, rx, rfl, rfl⟩ := decodeBindDma_eq_ok_iff.mp h
      exact ⟨rfl, rfl, trivial⟩
    case bindCh =>
      obtain ⟨dir, ch, rfl, rfl⟩ := decodeBindCh_eq_ok_iff.mp h
      exact ⟨rfl, rfl, trivial⟩
    case create | reset | teardown =>
      obtain ⟨rfl, rfl⟩ := decodeLife_eq_ok_iff.mp h
      exact ⟨rfl, rfl, trivial⟩
  · rintro ⟨rfl, rfl, hwf⟩
    cases i
    case tick host => exact if_pos hwf
    all_goals rfl

/-- The operands of a key in the map are never why the key would be reserved (30_encoding.md R71). -/
theorem assemble_ne_reservedKey : assemble op key o ≠ .error (.reservedKey k) := by
  cases op <;> dsimp only [assemble]
  case rdCs0 | rdCs1 | rdCs2 | rdCs3 | rdCaddr | rdCdata => fun_cases decodeRead <;> simp
  case wrCs0 | wrCs1 | wrCs2 | wrCs3 | wrCaddr | wrCdata => fun_cases decodeWrite <;> simp
  case dmaTx | ringPush => fun_cases decodeBytes <;> simp
  case dmaRx | ringPop => fun_cases decodeCount <;> simp
  case tick => fun_cases decodeTick <;> simp
  case bindDma => fun_cases decodeBindDma <;> simp
  case bindCh => fun_cases decodeBindCh <;> simp
  case create | reset | teardown => fun_cases decodeLife <;> simp

end Forms

/-! ### Decoding (30_encoding.md R63, R71) -/

/-- A pair decodes to an operation exactly when it is that operation's own pair and the operation is well formed (30_encoding.md R63,
R66). -/
theorem decode_eq_ok_iff {t : Transaction} {i : Instr} : decode t = .ok i ↔ encode i = t ∧ i.WellFormed := by
  constructor
  · intro h
    cases hkey : decodeKey t.key with
    | none => simp [decode, hkey] at h
    | some op =>
      obtain ⟨rfl, hoperands, hwf⟩ := assemble_eq_ok_iff.mp ((decode_of_decodeKey hkey).symm.trans h)
      refine ⟨?_, hwf⟩
      rw [encode, decodeKey_eq_some_iff.mp hkey, hoperands]
  · rintro ⟨rfl, hwf⟩
    exact (decode_of_decodeKey (decodeKey_eq_some_iff.mpr rfl)).trans (assemble_eq_ok_iff.mpr ⟨rfl, rfl, hwf⟩)

/-- Settles O4. -/
theorem decodeOfEncode : Obligations.DecodeOfEncode := fun _ hwf => decode_eq_ok_iff.mpr ⟨rfl, hwf⟩

/-- Settles O5. -/
theorem encodeOfDecode : Obligations.EncodeOfDecode := fun _ _ => decode_eq_ok_iff.mp

/-- Settles O1: each pair is its operation's own. -/
theorem specWordsDecode : Obligations.SpecWordsDecode := by
  simp only [Obligations.SpecWordsDecode, decode_eq_ok_iff]
  decide

/-- Only the key decides whether a pair is refused as reserved, and it is reserved exactly when it is no operation's key
(30_encoding.md R71). -/
theorem decode_eq_reservedKey_iff {t : Transaction} : decode t = .error (.reservedKey t.key) ↔ ∀ op : Opcode, op.key ≠ t.key := by
  cases hkey : decodeKey t.key with
  | none => simp [decode, hkey, ← decodeKey_eq_some_iff]
  | some op => simp [decode_of_decodeKey hkey, assemble_ne_reservedKey, ← decodeKey_eq_some_iff, hkey]

theorem Opcode.key_eq_append_iff {op : Opcode} {cls : BitVec 3} {sel : BitVec 8} :
    op.key = cls ++ sel ↔ op.cls = cls ∧ op.selector = sel := by
  constructor
  · intro h
    obtain ⟨-, hcls, hsel⟩ := Laws.Keys.key_reads_back op
    rw [h] at hcls hsel
    exact ⟨by simpa using hcls.symm, by simpa using hsel.symm⟩
  · rintro ⟨rfl, rfl⟩
    rfl

theorem one_lt_selector {sel : BitVec 8} (h0 : sel ≠ 0) (h1 : sel ≠ 1) : 1 < sel := by bv_omega

/-- Settles O2: a class's selectors outside the reserved ones are those of its operations, and no operation has a reserved one. -/
theorem reservedKeysExactly : Obligations.ReservedKeysExactly := by
  intro cls sel o
  refine decode_eq_reservedKey_iff.trans ⟨fun h => ?_, ?_⟩
  · have hsel (op : Opcode) (hcls : op.cls = cls) : sel ≠ op.selector := fun hop =>
      h op (Opcode.key_eq_append_iff.mpr ⟨hcls, hop.symm⟩)
    have classes : ∀ c : BitVec 3, c = 0 ∨ c = 1 ∨ c = 2 ∨ c = 3 ∨ c = 4 ∨ c = 5 ∨ c = 6 ∨ c = 7 := by decide
    obtain rfl | rfl | rfl | rfl | rfl | rfl | rfl | rfl := classes cls
    · refine .inr (.inl ⟨.inl rfl, fun hmem => ?_⟩)
      obtain ⟨op, hop, -⟩ := Option.map_eq_some_iff.mp (decodeKey_registerOffset_cls sel hmem).1
      exact h op (decodeKey_eq_some_iff.mp hop)
    · refine .inr (.inl ⟨.inr rfl, fun hmem => ?_⟩)
      obtain ⟨op, hop, -⟩ := Option.map_eq_some_iff.mp (decodeKey_registerOffset_cls sel hmem).2
      exact h op (decodeKey_eq_some_iff.mp hop)
    · exact .inr (.inr (.inl ⟨.inl rfl, one_lt_selector (hsel .dmaTx rfl) (hsel .dmaRx rfl)⟩))
    · exact .inr (.inr (.inr (.inl ⟨rfl, hsel .tick rfl⟩)))
    · exact .inr (.inr (.inl ⟨.inr (.inl rfl), one_lt_selector (hsel .bindDma rfl) (hsel .bindCh rfl)⟩))
    · have h0 : sel ≠ 0 := hsel .create rfl
      have h1 : sel ≠ 1 := hsel .reset rfl
      have h2 : sel ≠ 2 := hsel .teardown rfl
      exact .inr (.inr (.inr (.inr ⟨rfl, by bv_omega⟩)))
    · exact .inr (.inr (.inl ⟨.inr (.inr rfl), one_lt_selector (hsel .ringPush rfl) (hsel .ringPop rfl)⟩))
    · exact .inl rfl
  · intro htable op hkey
    obtain ⟨rfl, rfl⟩ := Opcode.key_eq_append_iff.mp hkey
    revert htable
    cases op <;> decide

/-- Settles O7: the refusal is in the state without the pair. -/
theorem undecodableIsRefused : Obligations.UndecodableIsRefused := fun _ _ _ _ => step_of_decode_error

end Sys2Proof.Machine
end

section
/-! PROOFS. Runs of operations (70_reset_and_hazards.md R188), one operation at a time; the refusal mark over a run (60_exceptions.md R161)
and the pseudo-operations on the sample rate (30_encoding.md R77). -/

namespace Sys2Proof.Machine

/-! ### Runs -/

theorem runOps_cons_of_next {i : Instr} {s t : State} (h : exec i s = .next t) (ops : List Instr) :
    runOps (i :: ops) s = runOps ops t := by
  simp [runOps, h]

theorem runOps_singleton (i : Instr) (s : State) : runOps [i] s = exec i s := by
  obtain ⟨t, ht⟩ := exec_next i s
  rw [runOps_cons_of_next ht, ht, runOps]

theorem runOps_append_of_next {ops : List Instr} {s t : State} (h : runOps ops s = .next t) (ops' : List Instr) :
    runOps (ops ++ ops') s = runOps ops' t := by
  induction ops generalizing s with
  | nil => cases h; rfl
  | cons i ops ih =>
    obtain ⟨u, hexec⟩ := exec_next i s
    rw [runOps_cons_of_next hexec] at h
    rw [List.cons_append, runOps_cons_of_next hexec, ih h]

/-- What every operation keeps, every run keeps. -/
theorem runOps_keeps (P : State → Prop) (hexec : ∀ {i : Instr} {s t : State}, exec i s = .next t → P s → P t)
    {ops : List Instr} {s t : State} (h : runOps ops s = .next t) (hs : P s) : P t := by
  induction ops generalizing s with
  | nil => cases h; exact hs
  | cons i ops ih =>
    obtain ⟨u, hu⟩ := exec_next i s
    exact ih ((runOps_cons_of_next hu ops).symm.trans h) (hexec hu hs)

/-! ### The refusal mark -/

/-- Only a refusal writes the mark, and it sets it (60_exceptions.md R161). -/
theorem exec_keeps_refusalMark {i : Instr} {s t : State} (h : exec i s = .next t) (hs : s.refusalMark = true) : t.refusalMark = true := by
  obtain ⟨e, fx, hend⟩ | ⟨why, hend⟩ | ⟨why, hend⟩ := exec_ends i s <;> cases h.symm.trans hend
  · exact hs
  · exact hs
  · rfl

/-- Settles O58. -/
theorem refusalMarkIsKept : Obligations.RefusalMarkIsKept := fun _ _ _ => runOps_keeps (·.refusalMark = true) exec_keeps_refusalMark

/-! ### The sample rate -/

theorem codecAddressField_formatAddress : codecAddressField formatAddress = 7 := by decide

/-- A pseudo-operation on the FORMAT register is its access, once the register is selected (30_encoding.md R77). -/
theorem runOps_selectFormat {s : State} (h : s.engine.life = .live) (i : Instr) :
    runOps [.wrCaddr formatAddress, i] s =
      exec i { s with engine := { s.engine with caddr := 7 }, trace := s.trace ++ [.done {}] } := by
  rw [runOps_cons_of_next ((exec_wrCaddr h _).trans rfl), runOps_singleton, codecAddressField_formatAddress]

/-- Every unsupported rate is a bad one at index 7 (60_exceptions.md R148). -/
theorem Engine.badRate_format {e : Engine} (h : e.caddr = 7) (v : Word) : e.badRate v = !Config.rates.contains v := by
  simp [Engine.badRate, h]

/-- `setrate r` selects the FORMAT register and stores the clamped rate (30_encoding.md R77, 43_streaming.md R118). -/
theorem runOps_pseudoSetRate {s : State} (h : s.engine.life = .live) (r : Word) :
    runOps (pseudoSetRate r) s = .next
      { s with
        engine := { s.engine with caddr := 7, rate := clampRate r }
        trace := s.trace ++
          [.done {}, .done { conditions := conditionIf (!Config.rates.contains r) .configurationError }] } := by
  rw [pseudoSetRate, pseudoCodecWr, runOps_selectFormat h, exec_wrCdata, Engine.setCodecData_format rfl, Engine.badRate_format rfl,
    State.complete, List.append_assoc, List.singleton_append]
  exact h

/-- `getrate` selects the FORMAT register and returns the rate (30_encoding.md R77, 43_streaming.md R119). -/
theorem runOps_pseudoGetRate {s : State} (h : s.engine.life = .live) :
    runOps pseudoGetRate s = .next
      { s with
        engine := { s.engine with caddr := 7 }
        trace := s.trace ++ [.done {}, .done { reply := .word s.engine.rate }] } := by
  rw [pseudoGetRate, pseudoCodecRd, runOps_selectFormat h, exec_rdCdata, Engine.codecData_format rfl, State.complete,
    List.append_assoc, List.singleton_append]
  exact h

/-- Settles O20: `getrate` runs in the state `setrate` leaves. -/
theorem setRateGetRate : Obligations.SetRateGetRate := by
  intro s r h
  exact ⟨_, (runOps_append_of_next (runOps_pseudoSetRate h r) _).trans (runOps_pseudoGetRate h),
    by simp [State.returned, Output.reply], rfl⟩

end Sys2Proof.Machine
end

section
/-! PROOFS. The register access operations (40_register_access.md R79 to R92): the fields of the words read, the enables and the flush of
a CS0 write, and the codec registers behind the address/data pair. -/

namespace Sys2Proof.Machine

/-! ### Reads -/

/-- A CS0 word shows the flags in the order of 10_state.md R22. -/
theorem Engine.getLsbD_cs0 (e : Engine) :
    e.cs0.getLsbD 0 = e.txen ∧ e.cs0.getLsbD 1 = e.rxen ∧ e.cs0.getLsbD 2 = e.ovr ∧ e.cs0.getLsbD 3 = e.unr ∧
      e.cs0.getLsbD 4 = e.full ∧ e.cs0.getLsbD 5 = e.empty := by
  simp only [Engine.cs0, zext32, BitVec.getLsbD_setWidth, BitVec.getLsbD_append]
  simp [Config.registerWidth]

/-- Extension with zeros leaves zeros above the field (00_scope.md R9). -/
theorem getLsbD_zext32_of_ge {w j : Nat} (v : BitVec w) (h : w ≤ j) : (zext32 v).getLsbD j = false := by
  rw [zext32, BitVec.getLsbD_setWidth, BitVec.getLsbD_of_ge v j h, Bool.and_false]

/-- A full ring is not empty (10_state.md R34). -/
theorem Engine.empty_of_full {e : Engine} (h : e.full = true) : e.empty = false := by
  rw [Engine.empty, Engine.occ_of_full h]
  decide

/-- The occupancy is bounded wherever the cursors stand (10_state.md R26). -/
theorem Engine.occ_le_capacity (e : Engine) : e.occ ≤ Config.ringCapacity := by
  unfold Engine.occ
  split
  · exact Nat.le_refl _
  · simp only [Config.ringCapacity]
    omega

/-- The occupancy fits in its field (10_state.md R25). -/
theorem Engine.toNat_cs3 (e : Engine) : e.cs3.toNat = e.occ := by
  have hle : e.occ ≤ 16384 := e.occ_le_capacity
  rw [Engine.cs3, toNat_zext32 _ (by decide), BitVec.toNat_ofNat, two_pow_thresholdWidth]
  omega

/-- Settles O9: bits 4 and 5 are the flags of a full and of an empty ring. -/
theorem readCs0ReturnsFlagsClearsLatches : Obligations.ReadCs0ReturnsFlagsClearsLatches := by
  intro s h
  obtain ⟨htxen, hrxen, hovr, hunr, hfull, hempty⟩ := s.engine.getLsbD_cs0
  refine ⟨_, exec_rdCs0 h, htxen, hrxen, hovr, hunr, hfull, hempty, fun j => getLsbD_zext32_of_ge _, ?_⟩
  rw [hfull, hempty]
  rintro ⟨hf, he⟩
  exact absurd he (by simp [Engine.empty_of_full hf])

/-- Settles O10. -/
theorem plainReadsReturnTheirFields : Obligations.PlainReadsReturnTheirFields := fun s h =>
  ⟨⟨_, toNat_zext32 _ (by decide), exec_rdCs1 h⟩, ⟨_, toNat_zext32 _ (by decide), exec_rdCs2 h⟩,
    ⟨_, s.engine.toNat_cs3, exec_rdCs3 h⟩, ⟨_, toNat_zext32 _ (by decide), exec_rdCaddr h⟩⟩

/-- A codec data read of index 7 (40_register_access.md R84). -/
theorem exec_rdCdata_format {s : State} (h : s.engine.life = .live) (hc : s.engine.caddr = 7) :
    exec .rdCdata s = s.complete s.engine { reply := .word s.engine.rate } := by
  rw [exec_rdCdata h, Engine.codecData_format hc]

/-- A codec data read of indices 0 to 6 (40_register_access.md R84). -/
theorem exec_rdCdata_stored {s : State} (h : s.engine.life = .live) (hc : s.engine.caddr.toNat < Config.storedCodecRegisters) :
    exec .rdCdata s = s.complete s.engine { reply := .word s.engine.codec[s.engine.caddr.toNat] } := by
  rw [exec_rdCdata h, Engine.codecData_stored hc]

/-- Settles O11: by the range of the codec address. -/
theorem readCodecData : Obligations.ReadCodecData := by
  intro s h
  refine ⟨fun hc => ⟨exec_rdCdata_format h hc, ?_⟩, fun hc => exec_rdCdata_stored h hc⟩
  rintro ⟨-, hrate, -⟩
  exact hrate

/-! ### Writes -/

/-- The flush in words: an enable is clear and its bit of the data is set (40_register_access.md R86). -/
theorem Engine.writeCs0_eq (e : Engine) (v : Word) :
    e.writeCs0 v =
      if (e.txen = false ∧ v.getLsbD 0 = true) ∨ (e.rxen = false ∧ v.getLsbD 1 = true) then
        { e with txen := v.getLsbD 0, rxen := v.getLsbD 1, wp := 0, rp := 0, full := false }
      else { e with txen := v.getLsbD 0, rxen := v.getLsbD 1 } := by
  simp only [Engine.writeCs0, Engine.flush, txenField, rxenField, Bool.or_eq_true, Bool.and_eq_true, Bool.not_eq_true']

/-- Settles O12. -/
theorem writeCs0SetsEnablesAndFlushes : Obligations.WriteCs0SetsEnablesAndFlushes := by
  intro s v h
  rw [← Engine.writeCs0_eq]
  exact exec_wrCs0 h v

/-- Settles O13. -/
theorem writeThresholds : Obligations.WriteThresholds := fun _ v h =>
  ⟨⟨_, toNat_thresholdField v, exec_wrCs1 h v⟩, ⟨_, toNat_thresholdField v, exec_wrCs2 h v⟩⟩

/-- Settles O14. -/
theorem writeCs3HasNoEffect : Obligations.WriteCs3HasNoEffect := fun _ v h => exec_wrCs3 h v

/-- Settles O15. -/
theorem writeCodecAddress : Obligations.WriteCodecAddress := fun _ v h => ⟨_, toNat_codecAddressField v, exec_wrCaddr h v⟩

/-- A codec data write of indices 0 to 6 meets no condition (40_register_access.md R91). -/
theorem exec_wrCdata_stored {s : State} (h : s.engine.life = .live) (hc : s.engine.caddr.toNat < Config.storedCodecRegisters)
    (v : Word) :
    exec (.wrCdata v) s = s.complete { s.engine with codec := s.engine.codec.set s.engine.caddr.toNat v } {} := by
  rw [exec_wrCdata h, Engine.setCodecData_stored hc, Engine.badRate_stored hc]
  rfl

/-- A codec data write of index 7 (40_register_access.md R91, 43_streaming.md R118). -/
theorem exec_wrCdata_format {s : State} (h : s.engine.life = .live) (hc : s.engine.caddr = 7) (v : Word) :
    exec (.wrCdata v) s =
      s.complete { s.engine with rate := clampRate v }
        { conditions := conditionIf (s.engine.badRate v) .configurationError } := by
  rw [exec_wrCdata h, Engine.setCodecData_format hc]

/-- Settles O16: by the range of the codec address. -/
theorem writeCodecData : Obligations.WriteCodecData := fun _ v h =>
  ⟨fun hc => exec_wrCdata_stored h hc v, fun hc => ⟨_, exec_wrCdata_format h hc v⟩⟩

/-! ### The address/data pair (40_register_access.md R92) -/

/-- A stored codec register returns the value last written to it. -/
theorem Engine.codecData_setCodecData {e : Engine} (h : e.caddr.toNat < Config.storedCodecRegisters) (v : Word) :
    (e.setCodecData v).codecData = v := by
  rw [Engine.setCodecData_stored h, Engine.codecData_stored (by exact h), Vector.getElem_set_self]

/-- `codec.wr i, v` selects the register and stores into it (30_encoding.md R77). -/
theorem runOps_pseudoCodecWr {s : State} (h : s.engine.life = .live) (i v : Word) :
    ∃ met, runOps (pseudoCodecWr i v) s = .next
      { s with
        engine := Engine.setCodecData { s.engine with caddr := codecAddressField i } v
        trace := s.trace ++ [.done {}] ++ [.done { conditions := met }] } := by
  rw [pseudoCodecWr, runOps_cons_of_next (exec_wrCaddr h i), runOps_singleton]
  exact ⟨_, exec_wrCdata (by exact h) v⟩

/-- Selecting the selected register again changes nothing (40_register_access.md R92). -/
theorem exec_wrCaddr_selected {s : State} (h : s.engine.life = .live) {i : Word} (hc : s.engine.caddr = codecAddressField i) :
    exec (.wrCaddr i) s = s.complete s.engine {} := by
  rw [exec_wrCaddr h, ← hc]

/-- `codec.rd i` of the selected register returns it and changes nothing (30_encoding.md R77). -/
theorem runOps_pseudoCodecRd_selected {s : State} (h : s.engine.life = .live) {i : Word}
    (hc : s.engine.caddr = codecAddressField i) :
    runOps (pseudoCodecRd i) s = .next
      { s with trace := s.trace ++ [.done {}] ++ [.done { reply := .word s.engine.codecData }] } := by
  rw [pseudoCodecRd, runOps_cons_of_next (exec_wrCaddr_selected h hc), runOps_singleton]
  exact exec_rdCdata (by exact h)

/-- Settles O19: both reads see the engine the write left, as selecting its register again changes nothing. -/
theorem codecPairReadsBack : Obligations.CodecPairReadsBack := by
  intro s i v h hi
  have hindex : (codecAddressField i).toNat < Config.storedCodecRegisters := (toNat_codecAddressField i).trans_lt hi
  obtain ⟨met, hwrite⟩ := runOps_pseudoCodecWr h i v
  have hread := runOps_append_of_next hwrite [.rdCdata]
  rw [runOps_singleton, exec_rdCdata (by simpa using h), Engine.codecData_setCodecData hindex] at hread
  have hagain := runOps_append_of_next hread (pseudoCodecRd i)
  rw [runOps_pseudoCodecRd_selected (by simpa using h) (by simp), Engine.codecData_setCodecData hindex] at hagain
  exact ⟨_, hagain, by simp [State.returned, Output.reply]⟩

end Sys2Proof.Machine
end

section
/-! PROOFS. The ring primitives (41_ring_buffer.md R99 to R106): what a push stores and a pop returns, their corner cases, and every
sequence of them. -/

namespace Sys2Proof.Machine

/-! ### Cursors and flag by the occupancy (10_state.md R26, R33) -/

theorem Engine.wp_eq_rp_of_full {e : Engine} (h : e.RingInv) (hfull : e.full = true) : e.wp = e.rp := h.2.2.1 hfull

theorem Engine.full_eq_false_iff {e : Engine} (h : e.RingInv) : e.full = false ↔ e.occ < Config.ringCapacity := by
  obtain ⟨hle, -, hfull⟩ := Engine.occ_spec h
  rw [← Bool.not_eq_true, ← hfull]
  omega

theorem Engine.wp_eq_rp_of_occ_eq_zero {e : Engine} (h : e.RingInv) (hocc : e.occ = 0) : e.wp = e.rp := by
  obtain ⟨-, hwp, -⟩ := Engine.occ_spec h
  obtain ⟨-, hrp, -⟩ := h
  rw [hwp, hocc, Nat.add_zero, Nat.mod_eq_of_lt hrp]

/-! ### A push (41_ring_buffer.md R99, R100) -/

/-- Settles O22. -/
theorem ringPushStoresAcceptedBytes : Obligations.RingPushStoresAcceptedBytes := by
  intro s data h hwf
  have hfree : s.engine.accepts data ≤ Config.ringCapacity := (s.engine.accepts_le_free data).trans (Nat.sub_le _ _)
  exact ⟨_, Memory.storesAt_writeRun hwf _ data _ (s.engine.accepts_le_length data) hfree, exec_ringPush h data⟩

theorem Engine.push_of_accepts_eq_zero {e : Engine} (h : e.RingInv) {data : List Byte} (ha : e.accepts data = 0) :
    e.push data = e := by
  obtain ⟨hwp, -⟩ := h
  simp [Engine.push, ha, Nat.mod_eq_of_lt hwp, Memory.writeRun]

@[simp] theorem Engine.accepts_nil (e : Engine) : e.accepts [] = 0 := Nat.zero_min _

theorem Engine.accepts_of_full {e : Engine} (hfull : e.full = true) (data : List Byte) : e.accepts data = 0 := by
  simp [Engine.accepts, Engine.free, Engine.occ_of_full hfull]

/-- Settles O26: nothing accepted leaves the ring alone, and the occupancy after the push decides its full flag. -/
theorem pushCornerCases : Obligations.PushCornerCases := by
  intro s data h hinv
  obtain ⟨hinv', hocc, hcontents⟩ := Engine.push_spec hinv data
  obtain ⟨hle, -, -⟩ := Engine.occ_spec hinv
  obtain ⟨-, -, hfull'⟩ := Engine.occ_spec hinv'
  refine ⟨_, s.engine.accepts data, exec_ringPush h data, by simp [State.returned, Output.reply], ?_, ?_, fun _ ha => ?_,
    fun ha => ?_, hcontents⟩
  · rintro rfl
    exact ⟨s.engine.accepts_nil, Engine.push_of_accepts_eq_zero hinv s.engine.accepts_nil⟩
  · intro hfull
    have ha := Engine.accepts_of_full hfull data
    exact ⟨ha, Engine.push_of_accepts_eq_zero hinv ha⟩
  · have hf : (s.engine.push data).full = true := hfull'.mp (by omega)
    exact ⟨Engine.wp_eq_rp_of_full hinv' hf, hf⟩
  · exact (Engine.full_eq_false_iff hinv').mpr (by omega)

/-! ### A pop (41_ring_buffer.md R101 to R103) -/

/-- Settles O23. -/
theorem ringPopReturnsBytesAtReadCursor : Obligations.RingPopReturnsBytesAtReadCursor := by
  intro s n h
  exact ⟨s.engine.popBytes n, s.engine.length_popBytes n, Memory.getElem?_readRun _ _ _, exec_ringPop h n⟩

theorem Engine.pop_of_min_eq_zero {e : Engine} (h : e.RingInv) {n : Nat} (hn : min n e.occ = 0) : e.pop n = e := by
  obtain ⟨-, hrp, -⟩ := h
  simp [Engine.pop, hn, Nat.mod_eq_of_lt hrp]

theorem Engine.popBytes_of_min_eq_zero {e : Engine} {n : Nat} (hn : min n e.occ = 0) : e.popBytes n = [] :=
  List.eq_nil_of_length_eq_zero ((e.length_popBytes n).trans hn)

/-- A pop splits the contents into the bytes it returns and those it leaves (41_ring_buffer.md R103). -/
theorem Engine.popBytes_append_contents_pop {e : Engine} (h : e.RingInv) (n : Nat) :
    e.popBytes n ++ (e.pop n).contents = e.contents := by
  obtain ⟨-, -, hbytes, hcontents⟩ := Engine.pop_spec h n
  rw [hbytes, hcontents, List.take_append_drop]

/-- Settles O27: no byte to return leaves the ring alone, and a pop of all of them leaves an occupancy of 0. -/
theorem popCornerCases : Obligations.PopCornerCases := by
  intro s n h hinv
  obtain ⟨hinv', hocc, -⟩ := Engine.pop_spec hinv n
  have nothing (hn : min n s.engine.occ = 0) : s.engine.popBytes n = [] ∧ s.engine.pop n = s.engine :=
    ⟨Engine.popBytes_of_min_eq_zero hn, Engine.pop_of_min_eq_zero hinv hn⟩
  refine ⟨_, s.engine.popBytes n, exec_ringPop h n, by simp [State.returned, Output.reply], fun hn => nothing (by omega),
    fun ho => nothing (by omega), fun hfull => ?_, fun hn => ?_, rfl, (Engine.popBytes_append_contents_pop hinv n).symm,
    s.engine.length_popBytes n⟩
  · rw [Engine.length_popBytes, Engine.occ_of_full hfull]
  · have hempty : (s.engine.pop n).occ = 0 := by omega
    exact ⟨(Engine.wp_eq_rp_of_occ_eq_zero hinv' hempty).symm,
      (Engine.full_eq_false_iff hinv').mpr (hempty ▸ by decide)⟩

/-! ### Sequences (41_ring_buffer.md R105, R106) -/

/-- A sequence of pushes and pops completes, keeps the ring's invariants and keeps the order of the bytes. -/
theorem runOps_ringOps (ops : List RingOp) {s : State} (h : s.engine.life = .live) (hinv : s.engine.RingInv) :
    ∃ t, runOps (ops.map RingOp.instr) s = .next t ∧ t.engine.RingInv ∧
      poppedBytes ops s.engine ++ t.engine.contents = s.engine.contents ++ acceptedBytes ops s.engine := by
  induction ops generalizing s with
  | nil => exact ⟨s, rfl, hinv, by simp [poppedBytes, acceptedBytes]⟩
  | cons op ops ih =>
    cases op with
    | push data =>
      obtain ⟨hinv', -, hcontents⟩ := Engine.push_spec hinv data
      obtain ⟨t, hrun, ht, horder⟩ := ih (s := { s with engine := s.engine.push data, trace := _ }) h hinv'
      refine ⟨t, (runOps_cons_of_next (exec_ringPush h data) _).trans hrun, ht, ?_⟩
      rw [poppedBytes, acceptedBytes, horder, hcontents, List.append_assoc]
    | pop n =>
      obtain ⟨hinv', -⟩ := Engine.pop_spec hinv n
      obtain ⟨t, hrun, ht, horder⟩ := ih (s := { s with engine := s.engine.pop n, trace := _ }) h hinv'
      refine ⟨t, (runOps_cons_of_next (exec_ringPop h n) _).trans hrun, ht, ?_⟩
      rw [poppedBytes, acceptedBytes, List.append_assoc, horder, ← List.append_assoc, Engine.popBytes_append_contents_pop hinv]

/-- Settles O25: the count is the length of the two sides of the order. -/
theorem ringSequencesKeepCountAndOrder : Obligations.RingSequencesKeepCountAndOrder := by
  intro ops s h hinv
  obtain ⟨t, hrun, ht, horder⟩ := runOps_ringOps ops h hinv
  have hcount := congrArg List.length horder
  simp only [List.length_append, Engine.length_contents] at hcount
  exact ⟨t, hrun, ht, t.engine.occ_le_capacity, by omega, horder⟩

end Sys2Proof.Machine
end

section
/-! PROOFS. Transfers and ticks over the ring's contents (41_ring_buffer.md R103, R106): bytes enter behind and leave in front, whoever
moves them. -/

namespace Sys2Proof.Machine

/-! ### Transfers (42_dma_bridge.md R109, R112) -/

@[simp] theorem Engine.contents_latchOverrun (e : Engine) (b : Bool) : (e.latchOverrun b).contents = e.contents := rfl

@[simp] theorem Engine.contents_latchUnderrun (e : Engine) (b : Bool) : (e.latchUnderrun b).contents = e.contents := rfl

/-- What is accepted of a byte string is what fits of it (41_ring_buffer.md R99). -/
theorem Engine.take_accepts (e : Engine) (data : List Byte) : data.take (e.accepts data) = data.take e.free := by
  rw [Engine.accepts, List.take_eq_take_iff]
  omega

/-- A receive transfer's bytes: the oldest of the contents, then zeros for those missing (42_dma_bridge.md R112). -/
theorem Engine.zeroFill_popBytes {e : Engine} (h : e.RingInv) (n : Nat) :
    zeroFill n (e.popBytes n) = e.contents.take n ++ List.replicate (n - e.occ) 0 := by
  obtain ⟨-, -, hbytes, -⟩ := Engine.pop_spec h n
  have hmissing : n - min n e.occ = n - e.occ := by omega
  rw [zeroFill, Engine.length_popBytes, hmissing, hbytes]
  rfl

/-- Settles O31: a transmit transfer is a push and a receive transfer a pop. -/
theorem transfersKeepByteOrder : Obligations.TransfersKeepByteOrder := by
  intro s t h hinv
  refine ⟨fun data hbound hon hexec => ?_, fun n hbound hon hexec => ?_⟩
  · cases hexec.symm.trans (exec_dmaTx_enabled h hbound hon data)
    obtain ⟨-, -, hcontents⟩ := Engine.push_spec hinv data
    rw [Engine.contents_latchOverrun, hcontents, Engine.take_accepts, Engine.free]
  · cases hexec.symm.trans (exec_dmaRx_enabled h hbound hon n)
    obtain ⟨-, -, -, hcontents⟩ := Engine.pop_spec hinv n
    exact ⟨hcontents, by simp [State.returned, Output.reply, Engine.zeroFill_popBytes hinv]⟩

/-! ### The tick (43_streaming.md R121 to R124) -/

@[simp] theorem Engine.playbackPart_rxen (e : Engine) : e.playbackPart.1.rxen = e.rxen := by
  unfold Engine.playbackPart; split <;> rfl

@[simp] theorem Engine.playbackPart_codec (e : Engine) : e.playbackPart.1.codec = e.codec := by
  unfold Engine.playbackPart; split <;> rfl

theorem Engine.playbackPart_spec {e : Engine} (h : e.RingInv) :
    e.playbackPart.1.RingInv ∧
      e.playbackPart.1.contents = if e.txen then e.contents.drop Config.frameBytes else e.contents := by
  unfold Engine.playbackPart
  split
  · obtain ⟨hinv, -, hcontents, -⟩ := Engine.playback_spec h
    exact ⟨hinv, hcontents⟩
  · exact ⟨h, rfl⟩

theorem Engine.contents_capturePart {e : Engine} (h : e.RingInv) (host : List Byte) :
    (e.capturePart host).1.contents = if e.rxen then e.contents ++ (e.captureBytes host).take e.free else e.contents := by
  unfold Engine.capturePart
  split
  · obtain ⟨-, -, hcontents, -⟩ := Engine.capture_spec h host
    exact hcontents
  · rfl

/-- The bytes captured of a host frame (43_streaming.md R124). -/
theorem Engine.captureBytes_toList (e : Engine) (g : Frame) : e.captureBytes g.toList = (Config.codecIn e.codec g).toList := by
  rw [Engine.captureBytes, frameBytes_eq_toList, frameOf_toList]

/-- Settles O35: the capture half sees the contents the playback half leaves. -/
theorem tickKeepsByteOrder : Obligations.TickKeepsByteOrder := by
  intro s t g h hinv hexec kept
  cases hexec.symm.trans (exec_tick h g.toList)
  obtain ⟨hinv', hkept : s.engine.playbackPart.1.contents = kept⟩ := Engine.playbackPart_spec hinv
  have hfree : s.engine.playbackPart.1.free = Config.ringCapacity - kept.length := by
    rw [← hkept, Engine.length_contents, Engine.free]
  rw [Engine.contents_capturePart hinv', Engine.captureBytes_toList, hkept, hfree, Engine.playbackPart_rxen,
    Engine.playbackPart_codec]

end Sys2Proof.Machine
end

section
/-! PROOFS. The transfers of the DMA bridge, each whole (42_dma_bridge.md R108 to R113): the binding guard, the enable, and the bytes
an enabled transfer moves. -/

namespace Sys2Proof.Machine

/-! ### DMA.TX (42_dma_bridge.md R109, R110) -/

theorem Engine.accepts_le_capacity (e : Engine) (data : List Byte) : e.accepts data ≤ Config.ringCapacity :=
  (e.accepts_le_free data).trans (Nat.sub_le _ _)

/-- A push stores the bytes it accepts from the write cursor on and no others (41_ring_buffer.md R99). -/
theorem Engine.storesAt_push {e : Engine} (h : e.ring.wf) (data : List Byte) :
    StoresAt e.ring (e.push data).ring e.wp data (e.accepts data) :=
  Memory.storesAt_writeRun h _ _ _ (e.accepts_le_length data) (e.accepts_le_capacity data)

/-- Settles O29: by the binding and the enable; an enabled transfer is a push. -/
theorem transmitTransfer : Obligations.TransmitTransfer := fun _ data hlive hwf =>
  ⟨fun hunbound => exec_dmaTx_unbound hlive hunbound data,
    fun hbound hoff => exec_dmaTx_disabled hlive hbound hoff data,
    fun hbound hon => ⟨_, _, Engine.storesAt_push hwf data, exec_dmaTx_enabled hlive hbound hon data⟩⟩

/-! ### DMA.RX (42_dma_bridge.md R112, R113) -/

theorem length_zeroFill {n : Nat} {data : List Byte} (h : data.length ≤ n) : (zeroFill n data).length = n := by
  simp [zeroFill, zeros, h]

/-- The filled string holds the data, then zeros (42_dma_bridge.md R112). -/
theorem getElem?_zeroFill {n i : Nat} (data : List Byte) (hi : i < n) :
    (zeroFill n data)[i]? = if i < data.length then data[i]? else some 0 := by
  split
  case isTrue hlt => exact List.getElem?_append_left hlt
  case isFalse hge =>
    rw [zeroFill, List.getElem?_append_right (by omega), zeros, List.getElem?_replicate_of_lt (by omega)]
    rfl

/-- What a receive transfer returns at each place: the byte at the read cursor and on, zero past the occupancy (42_dma_bridge.md
R112). -/
theorem Engine.getElem?_zeroFill_popBytes (e : Engine) {n i : Nat} (hi : i < n) :
    (zeroFill n (e.popBytes n))[i]? =
      some (if i < min n e.occ then e.ring.read ((e.rp + i) % Config.ringCapacity) else 0) := by
  rw [getElem?_zeroFill _ hi, Engine.length_popBytes]
  split
  case isTrue hlt => exact Memory.getElem?_readRun _ _ _ _ hlt
  case isFalse => rfl

/-- An enabled receive transfer, with the shortfall counted on the bytes the ring can give (42_dma_bridge.md R112). -/
theorem State.receive_eq (s : State) (n : Nat) :
    s.receive n = s.complete ((s.engine.pop n).latchUnderrun (decide (min n s.engine.occ < n)))
      { reply := .received (zeroFill n (s.engine.popBytes n))
        pulses := { dev := decide (min n s.engine.occ < n) && !s.engine.unr }
        conditions := conditionIf (decide (min n s.engine.occ < n)) .underrun } := by
  simp only [State.receive, Engine.length_popBytes]

/-- Settles O30: by the binding and the enable; an enabled transfer is a pop, filled with zeros. -/
theorem receiveTransfer : Obligations.ReceiveTransfer := fun s n hlive =>
  ⟨fun hunbound => exec_dmaRx_unbound hlive hunbound n,
    fun hbound hoff => exec_dmaRx_disabled hlive hbound hoff n,
    fun hbound hon =>
      have hlen : (s.engine.popBytes n).length ≤ n := (s.engine.length_popBytes n).trans_le (Nat.min_le_left _ _)
      ⟨_, _, length_zeroFill hlen, fun _ => s.engine.getElem?_zeroFill_popBytes,
        (exec_dmaRx_enabled hlive hbound hon n).trans (s.receive_eq n)⟩⟩

end Sys2Proof.Machine
end

section
/-! PROOFS. The sample-rate clamp (43_streaming.md R118): the fold over the supported rates ends at one that no other is preferred to,
and that rate, at each request, is the one of the table. -/

namespace Sys2Proof.Machine

/-- Of two rates the clamp of `v` does not prefer `r` to `c`: `c` is nearer, or equally near and not smaller (43_streaming.md R118). -/
def NotPreferred (v r c : Word) : Prop :=
  rateDistance v c < rateDistance v r ∨ rateDistance v c = rateDistance v r ∧ r ≤ c

theorem NotPreferred.refl (v r : Word) : NotPreferred v r r := .inr ⟨rfl, BitVec.le_refl r⟩

theorem NotPreferred.trans {v a b c : Word} (hab : NotPreferred v a b) (hbc : NotPreferred v b c) : NotPreferred v a c := by
  simp only [NotPreferred, BitVec.le_def] at *
  omega

/-- Neither rate is preferred to the one a step of the fold keeps. -/
theorem notPreferred_nearerRate (v b r : Word) : NotPreferred v b (nearerRate v b r) ∧ NotPreferred v r (nearerRate v b r) := by
  unfold nearerRate
  simp only [NotPreferred, BitVec.le_def, BitVec.lt_def]
  split
  · omega
  · split <;> omega

/-- Neither the rate the fold starts at nor one of the list is preferred to its result. -/
theorem notPreferred_foldl (v : Word) (rs : List Word) (b : Word) :
    NotPreferred v b (rs.foldl (nearerRate v) b) ∧ ∀ r ∈ rs, NotPreferred v r (rs.foldl (nearerRate v) b) := by
  induction rs generalizing b with
  | nil => exact ⟨.refl v b, by simp⟩
  | cons x rs ih =>
    obtain ⟨hb, hx⟩ := notPreferred_nearerRate v b x
    obtain ⟨hstart, hrest⟩ := ih (nearerRate v b x)
    exact ⟨hb.trans hstart, List.forall_mem_cons.mpr ⟨hx.trans hstart, hrest⟩⟩

theorem notPreferred_clampRate (v : Word) {r : Word} (hr : r ∈ Config.rates) : NotPreferred v r (clampRate v) :=
  (notPreferred_foldl v Config.rates _).2 r hr

theorem natAbs_sub_eq_rateDistance (v r : Word) : ((v.toNat : Int) - r.toNat).natAbs = rateDistance v r := by
  unfold rateDistance
  omega

/-- Settles O17: the clamp is a rate of the list, and no rate of the list is preferred to it. -/
theorem clampIsNearestSupportedRate : Obligations.ClampIsNearestSupportedRate := by
  intro v
  refine ⟨clampRate_mem_rates v, fun r hr => ?_⟩
  simp only [natAbs_sub_eq_rateDistance]
  obtain hnear | ⟨htie, hle⟩ := notPreferred_clampRate v hr
  · exact ⟨hnear.le, fun h => absurd h hnear.ne'⟩
  · exact ⟨htie.le, fun _ => hle⟩

/-- While `v` lies below the middle of `b` and every later rate, the fold stays at `b`. -/
theorem foldl_nearerRate_of_below {v b : Word} {rs : List Word} (h : ∀ r ∈ rs, b < r ∧ 2 * v.toNat < b.toNat + r.toNat) :
    rs.foldl (nearerRate v) b = b := by
  induction rs with
  | nil => rfl
  | cons r rs ih =>
    obtain ⟨⟨hbr, hbelow⟩, hrest⟩ := List.forall_mem_cons.mp h
    rw [List.foldl_cons, nearerRate_below v b r hbr hbelow, ih hrest]

/-- Over rising rates each step of the fold is a row of the table: `b` up to the middle to the next rate, else on from that rate. -/
theorem foldl_nearerRate_cons {v b r : Word} {rs : List Word} (h : (b :: r :: rs).Pairwise (· < ·)) :
    (r :: rs).foldl (nearerRate v) b =
      if v.toNat ≤ (b.toNat + r.toNat - 1) / 2 then b else rs.foldl (nearerRate v) r := by
  simp only [List.pairwise_cons, List.forall_mem_cons] at h
  obtain ⟨⟨hbr, hb⟩, hr, -⟩ := h
  have hlt : b.toNat < r.toNat := hbr
  split
  case isTrue hle =>
    have hbelow : 2 * v.toNat < b.toNat + r.toNat := by omega
    refine foldl_nearerRate_of_below (List.forall_mem_cons.mpr ⟨⟨hbr, hbelow⟩, fun x hx => ⟨hb x hx, ?_⟩⟩)
    have hrx : r.toNat < x.toNat := hr x hx
    omega
  case isFalse hgt => rw [List.foldl_cons, nearerRate_above v b r hbr (by omega)]

/-- Settles O18: the fold over the rising rates is the table, each bound the middle of two neighbours. -/
theorem clampTable : Obligations.ClampTable := by
  intro v
  rw [clampRate_eq]
  simp (disch := decide) only [foldl_nearerRate_cons, List.foldl_nil, apply_ite BitVec.toNat]
  rfl

end Sys2Proof.Machine
end

section
/-! PROOFS. The tick (43_streaming.md R121 to R131): each half is the rule's, with the frame it presents and the bytes it stores; which
latches and threshold events a tick cannot raise; ticks drain the ring; the sample rate is never read. -/

namespace Sys2Proof.Machine

/-! ### The halves as the spec writes them (43_streaming.md R122, R124) -/

/-- The frame a playback half hands to the codec: the bytes at the read cursor and on, silence past the occupancy. -/
theorem Engine.getElem_playbackFrame (e : Engine) {j : Nat} (hj : j < Config.frameBytes) :
    (frameOf (zeroFill Config.frameBytes (e.popBytes Config.frameBytes)))[j] =
      if j < e.occ then e.ring.read ((e.rp + j) % Config.ringCapacity) else Config.silence := by
  have hbyte := e.getElem?_zeroFill_popBytes hj
  simp only [lt_min_iff, hj, true_and] at hbyte
  rw [frameOf, Vector.getElem_ofFn, List.getD_eq_getElem?_getD, hbyte]
  rfl

theorem Engine.playbackPart_rule (e : Engine) : PlaybackRule e e.playbackPart.1 e.playbackPart.2 := by
  unfold PlaybackRule
  obtain htx | htx := Bool.eq_false_or_eq_true e.txen
  · rw [Engine.playbackPart_on htx, if_pos htx]
    refine ⟨?_, _, fun _ => e.getElem_playbackFrame, rfl, ?_⟩
    · simp only [Engine.playback, Engine.length_popBytes]
      rfl
    · simp only [Engine.playbackEffects, Engine.length_popBytes]
      rfl
  · rw [Engine.playbackPart_off htx, if_neg (by simp [htx])]
    exact ⟨rfl, rfl⟩

theorem Engine.capturePart_rule {e : Engine} (hwf : e.ring.wf) (host : List Byte) :
    CaptureRule e (e.capturePart host).1 (frameOf host) (e.capturePart host).2 := by
  unfold CaptureRule
  obtain hrx | hrx := Bool.eq_false_or_eq_true e.rxen
  · rw [Engine.capturePart_on hrx, if_pos hrx]
    have hbytes : e.captureBytes host = (Config.codecIn e.codec (frameOf host)).toList := frameBytes_eq_toList _
    have hstored := Engine.storesAt_push hwf (e.captureBytes host)
    refine ⟨?_, ?_, rfl, ?_⟩
    · simp only [Engine.capture, Engine.push, Engine.accepts_captureBytes, Engine.free]
      rfl
    · rw [Engine.accepts_captureBytes] at hstored
      exact hbytes ▸ hstored
    · simp only [Engine.captureEffects, Engine.accepts_captureBytes]
      rfl
  · rw [Engine.capturePart_off hrx, if_neg (by simp [hrx])]
    exact ⟨rfl, rfl⟩

@[simp] theorem Engine.playbackPart_ring (e : Engine) : e.playbackPart.1.ring = e.ring := by
  unfold Engine.playbackPart; split <;> rfl

/-- Only DEV and the conditions met can come from both halves (43_streaming.md R121). -/
theorem Engine.tick_effects (e m : Engine) (host : List Byte) :
    e.playbackPart.2.union (m.capturePart host).2 =
      { pulses :=
          { dev := e.playbackPart.2.pulses.dev || (m.capturePart host).2.pulses.dev
            txdma := e.playbackPart.2.pulses.txdma
            rxdma := (m.capturePart host).2.pulses.rxdma }
        sink := e.playbackPart.2.sink
        drawn := (m.capturePart host).2.drawn
        conditions := e.playbackPart.2.conditions ++ (m.capturePart host).2.conditions } := by
  unfold Engine.playbackPart Engine.capturePart
  split <;> split <;> simp [Effects.union, Pulses.union, Engine.playbackEffects, Engine.captureEffects]

/-- Settles O32: the halves are the model's, the capture half from the engine the playback half leaves. -/
theorem tickRunsBothHalves : Obligations.TickRunsBothHalves := by
  intro s host hlive hwf hlen
  have hcapture := Engine.capturePart_rule (e := s.engine.playbackPart.1) (by simpa using hwf) host
  have hexec := exec_tick hlive host
  rw [Engine.tick_effects] at hexec
  exact ⟨_, _, _, _, _, _, toList_frameOf hlen, s.engine.playbackPart_rule, hcapture, hexec⟩

/-- Settles O33: neither half runs. -/
theorem idleTickChangesNothing : Obligations.IdleTickChangesNothing := by
  intro s host hlive htx hrx
  rw [Performs, exec_tick hlive, Engine.playbackPart_off htx, Engine.capturePart_off hrx]
  rfl

/-! ### The latches (43_streaming.md R131 (b), (e)) -/

/-- A playback half makes room for a frame. -/
theorem Engine.frameBytes_le_free_playback {e : Engine} (h : e.RingInv) : Config.frameBytes ≤ e.playback.free := by
  obtain ⟨-, hocc, -⟩ := Engine.playback_spec h
  have hle := e.occ_le_capacity
  simp only [Engine.free, hocc, Config.ringCapacity, Config.frameBytes] at *
  omega

/-- With transmit enabled no tick overruns: the captured frame fits in the room the playback half has made. -/
theorem Engine.tick_ovr_of_txen {e : Engine} (h : e.RingInv) (htx : e.txen = true) (host : List Byte) :
    (e.playbackPart.1.capturePart host).1.ovr = e.ovr := by
  rw [Engine.playbackPart_on htx]
  obtain ⟨hinv, -⟩ := Engine.playback_spec h
  unfold Engine.capturePart
  split
  · obtain ⟨-, -, -, hovr⟩ := Engine.capture_spec hinv host
    simpa [Nat.not_lt.mpr (Engine.frameBytes_le_free_playback h)] using hovr
  · rfl

/-- With transmit disabled no tick underruns. -/
theorem Engine.tick_unr_of_not_txen {e : Engine} (htx : e.txen = false) (host : List Byte) :
    (e.playbackPart.1.capturePart host).1.unr = e.unr := by
  rw [Engine.playbackPart_off htx]
  unfold Engine.capturePart
  split <;> rfl

/-- Settles O34: transmit enabled keeps OVR, transmit disabled keeps UNR. -/
theorem tickNeverSetsBothLatches : Obligations.TickNeverSetsBothLatches := by
  intro s t host hlive hinv hexec
  cases hexec.symm.trans (exec_tick hlive host)
  refine ⟨fun htx _ => Engine.tick_ovr_of_txen hinv htx host, ?_⟩
  rintro ⟨hovr, hovr', hunr, hunr'⟩
  obtain htx | htx := Bool.eq_false_or_eq_true s.engine.txen
  · simp [Engine.tick_ovr_of_txen hinv htx, hovr] at hovr'
  · simp [Engine.tick_unr_of_not_txen htx, hunr] at hunr'

/-! ### The threshold events (60_exceptions.md R155, R156, 43_streaming.md R131 (d)) -/

/-- A playback half's TXDMA is a crossing from above the threshold. -/
theorem Engine.txthr_lt_occ_of_txdma {e : Engine} (h : e.playbackPart.2.pulses.txdma = true) : e.txthr.toNat < e.occ := by
  unfold Engine.playbackPart at h
  split at h
  · simp only [Engine.playbackEffects, Engine.lowWater, Bool.and_eq_true, decide_eq_true_eq] at h
    exact h.1
  · cases h

/-- A capture half's RXDMA is a crossing from below the threshold to or above it. -/
theorem Engine.occ_lt_rxthr_le_of_rxdma {e : Engine} {host : List Byte} (h : (e.capturePart host).2.pulses.rxdma = true) :
    e.occ < e.rxthr.toNat ∧ e.rxthr.toNat ≤ (e.capture host).occ := by
  unfold Engine.capturePart at h
  split at h
  · simpa only [Engine.captureEffects, Engine.highWater, Bool.and_eq_true, decide_eq_true_eq] using h
  · cases h

@[simp] theorem Engine.playbackPart_rxthr (e : Engine) : e.playbackPart.1.rxthr = e.rxthr := by
  unfold Engine.playbackPart; split <;> rfl

/-- The threshold lines a tick pulses are those of its halves; a refused tick pulses none. -/
theorem tick_threshold_pulses {s t : State} {host : List Byte} {o : Output} (hexec : exec (.tick host) s = .next t)
    (htrace : t.trace = s.trace ++ [o]) :
    (o.pulses.txdma = true → s.engine.playbackPart.2.pulses.txdma = true) ∧
      (o.pulses.rxdma = true → (s.engine.playbackPart.1.capturePart host).2.pulses.rxdma = true) := by
  by_cases hlive : s.engine.life = .live
  · have hexec' := exec_tick hlive host
    rw [Engine.tick_effects] at hexec'
    cases hexec.symm.trans hexec'
    obtain rfl := List.singleton_inj.mp (List.append_cancel_left htrace)
    exact ⟨id, id⟩
  · cases hexec.symm.trans (exec_not_live (by simp [Instr.opcode]) hlive)
    obtain rfl := List.singleton_inj.mp (List.append_cancel_left htrace)
    exact ⟨nofun, nofun⟩

/-- Settles O36: a pulse would be a crossing, and the occupancy is at most the capacity. -/
theorem thresholdEventsDoNotRepeat : Obligations.ThresholdEventsDoNotRepeat := by
  intro s t host o _ hexec htrace
  obtain ⟨htxdma, hrxdma⟩ := tick_threshold_pulses hexec htrace
  refine ⟨fun hthr => Bool.eq_false_iff.mpr fun hpulse => ?_, fun hthr => Bool.eq_false_iff.mpr fun hpulse => ?_⟩
  · have habove := Engine.txthr_lt_occ_of_txdma (htxdma hpulse)
    have hle := s.engine.occ_le_capacity
    omega
  · obtain ⟨hbelow, hreached⟩ := Engine.occ_lt_rxthr_le_of_rxdma (hrxdma hpulse)
    have hle := (s.engine.playbackPart.1.capture host).occ_le_capacity
    rw [Engine.playbackPart_rxthr] at hbelow hreached
    obtain hzero | hhigh | ⟨htx, hstart⟩ := hthr
    · simp [hzero] at hbelow
    · omega
    · rw [Engine.playbackPart_off htx] at hbelow
      exact absurd hbelow (Nat.not_lt.mpr hstart)

/-! ### Draining the ring (43_streaming.md R127) -/

/-- Settles O37, by induction on the ticks: each removes a frame's worth of bytes, or all of a partial frame. -/
theorem ticksDrainTheRing : Obligations.TicksDrainTheRing := by
  intro n
  induction n with
  | zero => exact fun s _ _ _ _ _ hocc => ⟨s, rfl, by omega⟩
  | succ n ih =>
    intro s host hlive hinv htx hrx hocc
    obtain ⟨hinv', hocc', -⟩ := Engine.playback_spec hinv
    rw [List.replicate_succ, runOps_cons_of_next (exec_tick_playback hlive htx hrx host)]
    rw [Nat.succ_mul] at hocc
    exact ih _ host hlive hinv' htx hrx (hocc'.trans_le (Nat.sub_le_iff_le_add.mpr hocc))

/-! ### The sample rate (43_streaming.md R130) -/

/-- The machine at another sample rate. -/
def State.withRate (s : State) (r : Word) : State := { s with engine := { s.engine with rate := r } }

/-- An answer with the next state at another sample rate. -/
def nextWithRate (r : Word) : Result → Result
  | .next t => .next (t.withRate r)
  | .fault why => .fault why
  | .refused why => .refused why

section WithRate
variable {s : State} {r : Word} {x x' y y' : Result}

theorem ite_withRate {p : Prop} [Decidable p] (h : x' = nextWithRate r x) (h' : y' = nextWithRate r y) :
    (if p then x' else y') = nextWithRate r (if p then x else y) := by
  rw [h, h', apply_ite (nextWithRate r)]

theorem whenLive_withRate (h : x' = nextWithRate r x) : (s.withRate r).whenLive x' = nextWithRate r (s.whenLive x) :=
  ite_withRate h rfl

theorem whenBound_withRate (dir : Dir) (h : x' = nextWithRate r x) :
    (s.withRate r).whenBound dir x' = nextWithRate r (s.whenBound dir x) := by
  have hbinding : (s.withRate r).engine.binding dir = s.engine.binding dir := by cases dir <;> rfl
  by_cases hb : s.engine.binding dir = none
  · rw [State.whenBound_unbound hb, State.whenBound_unbound (hbinding.trans hb)]
    rfl
  · rw [State.whenBound_bound hb, State.whenBound_bound (hbinding ▸ hb), h]

end WithRate

theorem Engine.playbackPart_withRate (e : Engine) (r : Word) :
    Engine.playbackPart { e with rate := r } = ({ e.playbackPart.1 with rate := r }, e.playbackPart.2) := by
  unfold Engine.playbackPart
  split <;> rfl

theorem Engine.capturePart_withRate (e : Engine) (r : Word) (host : List Byte) :
    Engine.capturePart { e with rate := r } host = ({ (e.capturePart host).1 with rate := r }, (e.capturePart host).2) := by
  unfold Engine.capturePart
  split <;> rfl

/-- A transfer or a tick at another rate does and presents the same, at that rate. -/
theorem exec_withRate {i : Instr} (hi : i.opcode ∈ [Opcode.dmaTx, .dmaRx, .tick]) (s : State) (r : Word) :
    exec i (s.withRate r) = nextWithRate r (exec i s) := by
  cases i
  case dmaTx data => exact whenLive_withRate (whenBound_withRate _ (ite_withRate rfl rfl))
  case dmaRx n => exact whenLive_withRate (whenBound_withRate _ (ite_withRate rfl rfl))
  case tick host =>
    refine whenLive_withRate ?_
    simp only [State.withRate, Engine.playbackPart_withRate, Engine.capturePart_withRate]
    rfl
  all_goals simp [Instr.opcode] at hi

/-- Settles O38: the three operations commute with a change of the rate, and write none themselves. -/
theorem rateDoesNotAffectStreaming : Obligations.RateDoesNotAffectStreaming := by
  intro i s t r hi hexec
  have hrate : i.opcode ∉ [Opcode.wrCdata, .reset, .create] := by
    intro hmem
    revert hi hmem
    cases i.opcode <;> decide
  refine ⟨(exec_withRate hi s r).trans (by rw [hexec]; rfl), ?_⟩
  exact exec_engine_rel (fun e e' => e'.rate = e.rate) hexec rfl (fun _ => rfl) fun _ _ hdoes => (hdoes.codec_eq hrate).2

end Sys2Proof.Machine
end

section
/-! PROOFS. DMA channel registration and the life cycle (44_binding_lifecycle.md): what BIND.DMA, BIND.CH, CREATE, RESET and TEARDOWN do
in the life state that admits them, which operations each life state admits, and that Faulted and Gone are final; and that instances do not
interfere (60_exceptions.md R171). -/

namespace Sys2Proof.Machine

/-! ### Registration -/

theorem Engine.active_iff (e : Engine) : e.active = true ↔ e.txen = true ∨ e.rxen = true := Bool.or_eq_true_iff

theorem Engine.active_eq_false_iff (e : Engine) : e.active = false ↔ e.txen = false ∧ e.rxen = false := Bool.or_eq_false_iff

theorem exec_bindDma_noChannel {s : State} (h : s.engine.life = .live) {mgr tx rx : Option ChanId}
    (hn : mgr = none ∨ tx = none ∨ rx = none) : exec (.bindDma mgr tx rx) s = s.raise .noChannel := by
  obtain rfl | rfl | rfl := hn
  · exact State.whenLive_live h _
  · cases mgr <;> exact State.whenLive_live h _
  · cases mgr <;> cases tx <;> exact State.whenLive_live h _

theorem exec_bindDma_registered {s : State} (h : s.engine.life = .live) (hr : s.engine.dmaReg = true) (mgr tx rx : ChanId) :
    exec (.bindDma (some mgr) (some tx) (some rx)) s = s.raise .alreadyRegistered :=
  (State.whenLive_live h _).trans (if_pos hr)

theorem exec_bindDma_active {s : State} (h : s.engine.life = .live) (hr : s.engine.dmaReg = false) (ha : s.engine.active = true)
    (mgr tx rx : ChanId) : exec (.bindDma (some mgr) (some tx) (some rx)) s = s.raise .activeEngine :=
  (State.whenLive_live h _).trans ((if_neg (Bool.eq_false_iff.mp hr)).trans (if_pos ha))

theorem exec_bindCh_none {s : State} (h : s.engine.life = .live) (dir : Dir) : exec (.bindCh dir none) s = s.raise .noChannel :=
  State.whenLive_live h _

theorem exec_bindCh_active {s : State} (h : s.engine.life = .live) (ha : s.engine.active = true) (dir : Dir) (ch : ChanId) :
    exec (.bindCh dir (some ch)) s = s.raise .activeEngine :=
  (State.whenLive_live h _).trans (if_pos ha)

/-- Settles O39: one case of the guards after the other (R135, 60_exceptions.md R162). -/
theorem registerDma : Obligations.RegisterDma := by
  intro s mgr tx rx h
  refine ⟨exec_bindDma_noChannel h, fun hm ht hr => ?_, fun hm ht hr => ?_, fun hm ht hr => ?_⟩ <;>
    obtain ⟨mgr, rfl⟩ := Option.ne_none_iff_exists'.mp hm <;>
    obtain ⟨tx, rfl⟩ := Option.ne_none_iff_exists'.mp ht <;>
    obtain ⟨rx, rfl⟩ := Option.ne_none_iff_exists'.mp hr
  · exact fun hreg => exec_bindDma_registered h hreg mgr tx rx
  · exact fun hreg hon => exec_bindDma_active h hreg (s.engine.active_iff.mpr hon) mgr tx rx
  · exact fun hreg htx hrx => exec_bindDma_bound h hreg (s.engine.active_eq_false_iff.mpr ⟨htx, hrx⟩) mgr tx rx

/-- Settles O40: a binding is set with both directions disabled only. -/
theorem registerChannel : Obligations.RegisterChannel := by
  intro s dir ch h
  refine ⟨exec_bindCh_none h dir, fun hon => exec_bindCh_active h (s.engine.active_iff.mpr hon) dir ch, fun htx hrx => ?_⟩
  have hidle : s.engine.active = false := s.engine.active_eq_false_iff.mpr ⟨htx, hrx⟩
  exact ⟨exec_bindCh_bound h hidle .tx ch, exec_bindCh_bound h hidle .rx ch⟩

/-! ### Creation, reset, teardown -/

/-- Settles O41: what CREATE leaves reads no field of what was before. -/
theorem createSetsEveryField : Obligations.CreateSetsEveryField := by
  intro s h
  refine ⟨Engine.created, exec_create h, rfl, Memory.read_nil, rfl, rfl, rfl, rfl, rfl, rfl, rfl, rfl, rfl, rfl, fun j hj => ?_,
    rfl, rfl, rfl, rfl, rfl⟩
  exact Vector.getElem_replicate hj

/-- Settles O43. -/
theorem resetRestoresRegistersKeepsBindings : Obligations.ResetRestoresRegistersKeepsBindings := fun _ h =>
  ⟨Vector.replicate 7 0, fun _ hj => Vector.getElem_replicate hj, exec_reset h⟩

/-- Settles O44. -/
theorem teardownReleasesVoiceAndBindings : Obligations.TeardownReleasesVoiceAndBindings := fun _ h => exec_teardown h

/-! ### Admission by life state (44_binding_lifecycle.md R133) -/

theorem admits_live_of_ne_create {op : Opcode} (h : op ≠ .create) : admits .live op = true := decide_eq_true h

theorem exec_of_not_admits {i : Instr} {s : State} (h : admits s.engine.life i.opcode = false) :
    exec i s = s.refuse (.notAdmitted s.engine.life) := by
  obtain ⟨-, hrefuse⟩ | ⟨hlive, hop, -⟩ | ⟨hadmits, -⟩ := exec_cases i s
  · exact hrefuse
  · have hcreate : i.opcode ≠ .create := fun hc => by simp [hc] at hop
    cases (admits_live_of_ne_create hcreate).symm.trans (hlive ▸ h)
  · cases hadmits.symm.trans h

/-- Settles O45: of the three ends of an operation only the refusal writes the mark, and none happens to an operation its life state
admits. -/
theorem lifeStateAdmission : Obligations.LifeStateAdmission := by
  refine fun i s => ⟨exec_of_not_admits, fun hadmits => ?_⟩
  obtain ⟨hnot, -⟩ | ⟨-, -, why, hraise⟩ | ⟨-, e, fx, -, hdone⟩ := exec_cases i s
  · cases hadmits.symm.trans hnot
  · exact ⟨_, .faulted why, hraise, rfl, rfl, by simp⟩
  · exact ⟨_, .done fx, hdone, rfl, rfl, by simp⟩

theorem not_admits_of_final {l : Life} (h : l = .faulted ∨ l = .gone) (op : Opcode) : admits l op = false := by
  obtain rfl | rfl := h <;> rfl

/-- Settles O46, by induction on the list: each operation is refused, and a refusal keeps the engine. -/
theorem faultedAndGoneAreFinal : Obligations.FaultedAndGoneAreFinal := by
  intro ops
  induction ops with
  | nil => exact fun s _ => ⟨s, rfl, rfl, by simp, by simp⟩
  | cons i ops ih =>
    intro s hfinal
    obtain ⟨t, hrun, hengine, hmark, hpulses⟩ :=
      ih { s with refusalMark := true, trace := s.trace ++ [.refused (.notAdmitted s.engine.life)] } hfinal
    refine ⟨t, (runOps_cons_of_next (exec_of_not_admits (not_admits_of_final hfinal _)) ops).trans hrun, hengine, ?_, ?_⟩
    · simp [hmark]
    · rw [hpulses]
      simp [State.pulseSets, Output.pulses, List.replicate_succ]

/-! ### Instances (44_binding_lifecycle.md R142, 60_exceptions.md R171) -/

theorem Instances.execAt_of_none {m : Instances} {k : Nat} (h : m[k]? = none) (i : Instr) : m.execAt k i = .next m := by
  simp [Instances.execAt, h]

theorem Instances.execAt_of_next {m : Instances} {k : Nat} {i : Instr} {s t : State} (h : m[k]? = some s) (hexec : exec i s = .next t) :
    m.execAt k i = .next (m.set k t) := by
  simp [Instances.execAt, h, hexec]

/-- Settles O60: only entry `k` of the list is replaced, and none where the list has no entry `k`. -/
theorem instancesDoNotInterfere : Obligations.InstancesDoNotInterfere := by
  intro m k i
  cases hk : m[k]? with
  | none => exact ⟨m, Instances.execAt_of_none hk i, rfl, fun _ _ => rfl, nofun⟩
  | some s =>
    obtain ⟨t, hexec⟩ := exec_next i s
    have hlt : k < m.length := (List.getElem?_eq_some_iff.mp hk).1
    refine ⟨m.set k t, Instances.execAt_of_next hk hexec, List.length_set, fun j hj => List.getElem?_set_ne hj.symm, ?_⟩
    rintro _ ⟨⟩
    exact ⟨t, hexec, List.getElem?_set_self hlt⟩

end Sys2Proof.Machine
end

section
/-! PROOFS. The conditions, the latches that record them and the pulses (60_exceptions.md R148 to R160): which operations meet which
condition and pulse which line, that DEV goes with a latch's rise, and how often a line is pulsed over a run. -/

namespace Sys2Proof.Machine

/-! ### The output of one operation -/

/-- The one output an operation adds, with the engine it leaves: it is refused where its life state does not admit it, or it is a
registration or a transfer that raises BindingError, or it is performed (44_binding_lifecycle.md R133, 60_exceptions.md R160, R161). -/
theorem exec_output_cases {i : Instr} {s t : State} {o : Output} (h : exec i s = .next t) (htrace : t.trace = s.trace ++ [o]) :
    (admits s.engine.life i.opcode = false ∧ t.engine = s.engine ∧ o = .refused (.notAdmitted s.engine.life)) ∨
    (s.engine.life = .live ∧ i.opcode ∈ [Opcode.bindDma, .bindCh, .dmaTx, .dmaRx] ∧
      t.engine = { s.engine with life := .faulted } ∧ ∃ why, o = .faulted why) ∨
    (admits s.engine.life i.opcode = true ∧ ∃ fx, Does s.engine i t.engine fx ∧ o = .done fx) := by
  obtain ⟨hadmits, hx⟩ | ⟨hlive, hop, why, hx⟩ | ⟨hadmits, e, fx, hdoes, hx⟩ := exec_cases i s <;>
    cases h.symm.trans hx <;>
    obtain rfl := List.singleton_inj.mp (List.append_cancel_left htrace)
  · exact .inl ⟨hadmits, rfl, rfl⟩
  · exact .inr (.inl ⟨hlive, hop, rfl, why, rfl⟩)
  · exact .inr (.inr ⟨hadmits, fx, hdoes, rfl⟩)

/-- Settles O47: of the three ends of an operation only the BindingError has such an output. -/
theorem bindingErrorHasNoOtherEffect : Obligations.BindingErrorHasNoOtherEffect := by
  intro i s t why h htrace
  obtain ⟨-, hx⟩ | ⟨hlive, hop, why', hx⟩ | ⟨-, e, fx, -, hx⟩ := exec_cases i s <;> cases h.symm.trans hx
  · cases List.append_cancel_left htrace
  · exact ⟨hlive, hop, rfl, rfl, rfl, rfl, rfl⟩
  · cases List.append_cancel_left htrace

/-! ### The latches after the halves of a tick (43_streaming.md R122, R124) -/

@[simp] theorem mem_conditionIf {b : Bool} {c d : Condition} : c ∈ conditionIf b d ↔ b = true ∧ c = d := by
  cases b <;> simp [conditionIf]

/-- Whether a playback half runs short decides UNR, DEV and the condition met; OVR is none of its concern. -/
theorem Engine.playbackPart_latches (e : Engine) : ∃ short,
    e.playbackPart.1.ovr = e.ovr ∧ e.playbackPart.1.unr = (e.unr || short) ∧
      e.playbackPart.2.pulses.dev = (short && !e.unr) ∧ e.playbackPart.2.conditions = conditionIf short .underrun := by
  obtain htx | htx := Bool.eq_false_or_eq_true e.txen
  · rw [Engine.playbackPart_on htx]
    exact ⟨_, rfl, rfl, rfl, rfl⟩
  · rw [Engine.playbackPart_off htx]
    exact ⟨false, rfl, by simp, rfl, rfl⟩

/-- Whether a capture half runs short decides OVR, DEV and the condition met; UNR is none of its concern. -/
theorem Engine.capturePart_latches (e : Engine) (host : List Byte) : ∃ short,
    (e.capturePart host).1.unr = e.unr ∧ (e.capturePart host).1.ovr = (e.ovr || short) ∧
      (e.capturePart host).2.pulses.dev = (short && !e.ovr) ∧ (e.capturePart host).2.conditions = conditionIf short .overrun := by
  obtain hrx | hrx := Bool.eq_false_or_eq_true e.rxen
  · rw [Engine.capturePart_on hrx]
    exact ⟨_, rfl, rfl, rfl, rfl⟩
  · rw [Engine.capturePart_off hrx]
    exact ⟨false, rfl, by simp, rfl, rfl⟩

/-- A tick's latches, DEV and conditions, by whether its halves run short. -/
theorem Engine.tick_latches (e : Engine) (host : List Byte) : ∃ underran overran,
    (e.playbackPart.1.capturePart host).1.unr = (e.unr || underran) ∧ (e.playbackPart.1.capturePart host).1.ovr = (e.ovr || overran) ∧
      (e.playbackPart.2.union (e.playbackPart.1.capturePart host).2).pulses.dev = (underran && !e.unr || overran && !e.ovr) ∧
      (e.playbackPart.2.union (e.playbackPart.1.capturePart host).2).conditions =
        conditionIf underran .underrun ++ conditionIf overran .overrun := by
  obtain ⟨underran, hovr, hunr, hdev, hmet⟩ := e.playbackPart_latches
  obtain ⟨overran, hunr', hovr', hdev', hmet'⟩ := e.playbackPart.1.capturePart_latches host
  rw [Engine.tick_effects, hmet, hmet', hdev, hdev', hunr', hunr, hovr', hovr]
  exact ⟨underran, overran, rfl, rfl, rfl, rfl⟩

/-! ### What a performed operation pulses and meets -/

section Effects
variable {e e' : Engine} {i : Instr} {fx : Effects}

/-- A latch changes from 0 to 1 exactly where it is 0 and its condition is met (60_exceptions.md R150, R151). -/
theorem latch_rise_eq (latch short : Bool) : (!latch && (latch || short)) = (short && !latch) := by
  cases latch <;> simp

theorem Does.dev_eq_latch_rise (h : Does e i e' fx) : fx.pulses.dev = ((!e.ovr && e'.ovr) || (!e.unr && e'.unr)) := by
  cases h
  case tick host =>
    obtain ⟨underran, overran, hunr, hovr, hdev, -⟩ := e.tick_latches host
    rw [hdev, hunr, hovr, latch_rise_eq, latch_rise_eq, Bool.or_comm]
  case transmit | receive => simp [latch_rise_eq]
  case create => simp [Engine.created]
  all_goals simp

theorem Does.pulses_eq_empty (h : Does e i e' fx) (hi : i.opcode ∉ [Opcode.dmaTx, .dmaRx, .tick]) : fx.pulses = {} := by
  cases h
  case transmit | receive | tick => simp [Instr.opcode] at hi
  all_goals rfl

theorem Does.txdma_source (h : Does e i e' fx) (htxdma : fx.pulses.txdma = true) :
    (i.opcode = .dmaTx ∧ e.ovr = false ∧ e'.ovr = true) ∨ (i.opcode = .tick ∧ e.txen = true) := by
  cases h
  case transmit data _ _ =>
    obtain ⟨hshort, hclear⟩ := Bool.and_eq_true_iff.mp htxdma
    exact .inl ⟨rfl, by simpa using hclear, by simp [hshort]⟩
  case tick host =>
    rw [Engine.tick_effects] at htxdma
    refine .inr ⟨rfl, Bool.not_eq_false _ ▸ fun hoff => ?_⟩
    simp [Engine.playbackPart_off hoff] at htxdma
  all_goals cases htxdma

theorem Does.rxdma_source (h : Does e i e' fx) (hrxdma : fx.pulses.rxdma = true) : i.opcode = .tick ∧ e.rxen = true := by
  cases h
  case tick host =>
    rw [Engine.tick_effects] at hrxdma
    refine ⟨rfl, Bool.not_eq_false _ ▸ fun hoff => ?_⟩
    simp [Engine.capturePart_off (e.playbackPart_rxen.trans hoff)] at hrxdma
  all_goals cases hrxdma

/-- Only a DMA.TX returns a count of accepted bytes (42_dma_bridge.md R109). -/
theorem Does.opcode_of_accepted {n : Nat} (h : Does e i e' fx) (hreply : fx.reply = .accepted n) : i.opcode = .dmaTx := by
  cases h
  case transmit | transmitOff => rfl
  case tick host => simp at hreply
  all_goals cases hreply

/-- OVR records every overrun and rises by no other condition (60_exceptions.md R150). -/
theorem Does.ovr_records_overrun (h : Does e i e' fx) :
    (.overrun ∈ fx.conditions → i.opcode ∈ [Opcode.dmaTx, .tick] ∧ e'.ovr = true) ∧
      (e.ovr = false → e'.ovr = true → .overrun ∈ fx.conditions) := by
  cases h
  case tick host =>
    obtain ⟨underran, overran, -, hovr, -, hmet⟩ := e.tick_latches host
    rw [hmet, hovr]
    simp +contextual [Instr.opcode]
  case transmit => simp +contextual [Instr.opcode]
  case create => simp [Engine.created]
  all_goals simp +contextual

/-- UNR records every underrun and rises by no other condition (60_exceptions.md R151). -/
theorem Does.unr_records_underrun (h : Does e i e' fx) :
    (.underrun ∈ fx.conditions → i.opcode ∈ [Opcode.dmaRx, .tick] ∧ e'.unr = true) ∧
      (e.unr = false → e'.unr = true → .underrun ∈ fx.conditions) := by
  cases h
  case tick host =>
    obtain ⟨underran, overran, hunr, -, -, hmet⟩ := e.tick_latches host
    rw [hmet, hunr]
    simp +contextual [Instr.opcode]
  case receive => simp +contextual [Instr.opcode]
  case create => simp [Engine.created]
  all_goals simp +contextual

/-- A bad rate is an unsupported value written to index 7 (60_exceptions.md R148, R149). -/
theorem Engine.badRate_iff (e : Engine) (v : Word) : e.badRate v = true ↔ e.caddr = 7 ∧ v ∉ Config.rates := by
  obtain h | h := e.caddr_stored_or_format
  · have hne : e.caddr ≠ 7 := fun hc => absurd h (by rw [hc]; decide)
    simp only [Engine.badRate_stored h, hne, false_and, Bool.false_eq_true]
  · simp [Engine.badRate_format h, h]

theorem Does.configurationError_iff (h : Does e i e' fx) :
    .configurationError ∈ fx.conditions ↔ e.caddr = 7 ∧ ∃ v, i = .wrCdata v ∧ v ∉ Config.rates := by
  cases h
  case wrCdata v => simp [Engine.badRate_iff]
  case tick host =>
    obtain ⟨underran, overran, -, -, -, hmet⟩ := e.tick_latches host
    simp [hmet]
  all_goals simp

theorem Does.bindingError_not_met (h : Does e i e' fx) : .bindingError ∉ fx.conditions := by
  cases h
  case tick host =>
    obtain ⟨underran, overran, -, -, -, hmet⟩ := e.tick_latches host
    simp [hmet]
  all_goals simp

/-- No performed operation faults the engine: only BindingError does (60_exceptions.md R160). -/
theorem Does.life_ne_faulted (h : Does e i e' fx) (hlife : e.life ≠ .faulted) : e'.life ≠ .faulted := by
  by_cases hi : i.opcode ∈ [Opcode.create, .teardown]
  · cases h
    case create | teardown => exact nofun
    all_goals simp [Instr.opcode] at hi
  · rwa [(h.life_voice_eq hi).1]

end Effects

theorem life_ne_faulted_of_admits {l : Life} {op : Opcode} (h : admits l op = true) : l ≠ .faulted := by
  rintro rfl
  cases h

theorem life_eq_live_of_admits {l : Life} {op : Opcode} (h : admits l op = true) (hop : op ≠ .create) : l = .live := by
  cases l
  case live => rfl
  case absent => exact absurd (of_decide_eq_true h) hop
  all_goals cases h

/-! ### The rules over every operation and state -/

/-- Settles O50: a refused or faulting operation pulses nothing and keeps both latches. -/
theorem devPulseExactlyOnLatchRise : Obligations.DevPulseExactlyOnLatchRise := by
  intro i s t o h htrace
  obtain ⟨-, hengine, rfl⟩ | ⟨-, -, hengine, why, rfl⟩ | ⟨-, fx, hdoes, rfl⟩ := exec_output_cases h htrace
  · simp [hengine, Output.pulses]
  · simp [hengine, Output.pulses]
  · exact hdoes.dev_eq_latch_rise

/-- Settles O52: a refused or faulting operation pulses nothing. -/
theorem pulseSources : Obligations.PulseSources := by
  intro i s t o h htrace
  obtain ⟨-, -, rfl⟩ | ⟨-, -, -, why, rfl⟩ | ⟨-, fx, hdoes, rfl⟩ := exec_output_cases h htrace
  · exact ⟨nofun, nofun, fun _ => rfl⟩
  · exact ⟨nofun, nofun, fun _ => rfl⟩
  · exact ⟨hdoes.txdma_source, hdoes.rxdma_source, hdoes.pulses_eq_empty⟩

/-- Settles O51: a refused operation meets no condition and keeps the engine, a faulting one meets BindingError alone and keeps both
latches, and a performed one meets what `Does` says. -/
theorem conditionsMet : Obligations.ConditionsMet := by
  intro i s t o h htrace
  obtain ⟨hnot, hengine, rfl⟩ | ⟨hlive, hop, hengine, why, rfl⟩ | ⟨hadmits, fx, hdoes, rfl⟩ := exec_output_cases h htrace
  · refine ⟨iff_of_false nofun ?_, nofun, nofun, ?_, ?_, iff_of_false nofun ?_⟩
    · rintro ⟨hlive, -, v, rfl, -⟩
      rw [hlive] at hnot
      cases hnot
    all_goals simp +contextual [hengine]
  · refine ⟨iff_of_false nofun ?_, nofun, nofun, ?_, ?_, iff_of_true (List.mem_singleton_self _) ?_⟩
    · rintro ⟨-, -, v, rfl, -⟩
      simp [Instr.opcode] at hop
    all_goals simp +contextual [hengine, hlive]
  · obtain ⟨hoverrun, hovr⟩ := hdoes.ovr_records_overrun
    obtain ⟨hunderrun, hunr⟩ := hdoes.unr_records_underrun
    have hlife := life_ne_faulted_of_admits hadmits
    refine ⟨hdoes.configurationError_iff.trans (iff_and_self.mpr ?_), hoverrun, hunderrun, hovr, hunr,
      iff_of_false hdoes.bindingError_not_met fun hfaults => hdoes.life_ne_faulted hlife hfaults.2⟩
    rintro ⟨-, v, rfl, -⟩
    exact life_eq_live_of_admits hadmits nofun

/-! ### Pulses of a run (60_exceptions.md R159) -/

/-- Where every operation whose output satisfies `p` uses up one of a number `m` of the engine and no operation adds to it, a run has at
most as many such outputs as the number at its start. -/
theorem runOps_filter_le (p : Output → Bool) (m : Engine → Nat) {ops : List Instr}
    (hexec : ∀ i ∈ ops, ∀ {s t : State} {o : Output}, exec i s = .next t → t.trace = s.trace ++ [o] →
      (p o).toNat + m t.engine ≤ m s.engine)
    {s t : State} (hrun : runOps ops s = .next t) :
    ∃ outs, t.trace = s.trace ++ outs ∧ outs.length = ops.length ∧ (outs.filter p).length ≤ m s.engine := by
  induction ops generalizing s with
  | nil => cases hrun; exact ⟨[], by simp, rfl, Nat.zero_le _⟩
  | cons i ops ih =>
    obtain ⟨hi, hops⟩ := List.forall_mem_cons.mp hexec
    obtain ⟨u, o, hu, -, huTrace⟩ := (exec_ends i s).exists_next
    obtain ⟨outs, htrace, hlen, hcount⟩ := ih hops ((runOps_cons_of_next hu ops).symm.trans hrun)
    refine ⟨o :: outs, by simp [htrace, huTrace], by simp [hlen], ?_⟩
    calc ((o :: outs).filter p).length = (p o).toNat + (outs.filter p).length := by cases hp : p o <;> simp [hp, Nat.add_comm]
      _ ≤ (p o).toNat + m u.engine := Nat.add_le_add_left hcount _
      _ ≤ m s.engine := hi hu huTrace

/-- How many latches are clear. -/
def Engine.clearLatchCount (e : Engine) : Nat := (!e.ovr).toNat + (!e.unr).toNat

/-- Latches that stay set: each rise uses up a clear one. -/
theorem rise_add_clear_le : ∀ ovr unr ovr' unr' : Bool, (ovr = true → ovr' = true) → (unr = true → unr' = true) →
    ((!ovr && ovr') || (!unr && unr')).toNat + ((!ovr').toNat + (!unr').toNat) ≤ (!ovr).toNat + (!unr).toNat := by
  decide

section Performed
variable {i : Instr} {s t : State} {o : Output}

theorem dev_add_clearLatchCount_le (hi : clearsLatches i = false) (h : exec i s = .next t) (htrace : t.trace = s.trace ++ [o]) :
    o.pulses.dev.toNat + t.engine.clearLatchCount ≤ s.engine.clearLatchCount := by
  obtain ⟨hovr, hunr⟩ := latchesClearedOnlyByCs0ReadOrReset i s t h hi
  rw [devPulseExactlyOnLatchRise i s t o h htrace]
  exact rise_add_clear_le _ _ _ _ hovr hunr

theorem latch_rise_of_transmitOverrunPulse (h : exec i s = .next t) (htrace : t.trace = s.trace ++ [o])
    (hpulse : o.transmitOverrunPulse = true) : s.engine.ovr = false ∧ t.engine.ovr = true := by
  obtain ⟨-, -, rfl⟩ | ⟨-, -, -, why, rfl⟩ | ⟨-, fx, hdoes, rfl⟩ := exec_output_cases h htrace
  · cases hpulse
  · cases hpulse
  · unfold Output.transmitOverrunPulse at hpulse
    split at hpulse
    next n hreply =>
      obtain ⟨-, hrise⟩ | ⟨htick, -⟩ := hdoes.txdma_source hpulse
      · exact hrise
      · cases (hdoes.opcode_of_accepted hreply).symm.trans htick
    next => cases hpulse

theorem transmitOverrunPulse_add_clear_le (hi : clearsLatches i = false) (h : exec i s = .next t)
    (htrace : t.trace = s.trace ++ [o]) : o.transmitOverrunPulse.toNat + (!t.engine.ovr).toNat ≤ (!s.engine.ovr).toNat := by
  obtain ⟨hkept, -⟩ := latchesClearedOnlyByCs0ReadOrReset i s t h hi
  obtain hpulse | hpulse := Bool.eq_false_or_eq_true o.transmitOverrunPulse
  · obtain ⟨hclear, hset⟩ := latch_rise_of_transmitOverrunPulse h htrace hpulse
    simp [hpulse, hclear, hset]
  · cases hovr : s.engine.ovr
    · simpa [hpulse] using Bool.toNat_le _
    · simp [hpulse, hkept hovr]

end Performed

/-- Settles O54: each pulse counted uses up a clear latch, which stays set to the end of the run. -/
theorem pulsesCoalesceBetweenClears : Obligations.PulsesCoalesceBetweenClears := by
  intro ops s t hops hrun
  obtain ⟨outs, htrace, hlen, hdev⟩ := runOps_filter_le (·.pulses.dev) Engine.clearLatchCount
    (fun i hi _ _ _ => dev_add_clearLatchCount_le (hops i hi)) hrun
  obtain ⟨outs', htrace', -, htxdma⟩ := runOps_filter_le Output.transmitOverrunPulse (fun e => (!e.ovr).toNat)
    (fun i hi _ _ _ => transmitOverrunPulse_add_clear_le (hops i hi)) hrun
  obtain rfl := List.append_cancel_left (htrace'.symm.trans htrace)
  exact ⟨_, htrace, hlen, hdev, htxdma⟩

end Sys2Proof.Machine
end
